-- ==== Sys2Proof/Word.lean ====
section
/-! DEFINITION. The words and levels of the encoder: the command word (R40), the transmission word (R48), a frame-buffer
cell (R16) and the level of a line (R9). Bit 0 is the least significant bit of every word (R9). -/

namespace Sys2Proof

/-- One command, as it stands on `cmd[31:0]` (R40). -/
abbrev CmdWord := BitVec 32

/-- One response, as it stands on `rsp[31:0]` (R45). -/
abbrev RspWord := BitVec 32

/-- One transmission word: the 16 bits sent for one pixel (R48). -/
abbrev TxWord := BitVec 16

/-- The value of one frame-buffer cell, a `W`-bit unsigned number extended with zeros to 16 bits (R16, R46); `W` is at most
15 (R5). -/
abbrev Pixel := BitVec 16

/-- A line level that can be driven (R9). -/
inductive Level where
  | L
  | H
  deriving DecidableEq, Repr

/-- The level that stands for a bit: `L` for 0 and `H` for 1 (R9). -/
def levelOfBit (b : Bool) : Level :=
  if b then .H else .L

end Sys2Proof
end

