-- ==== Sys2Proof/Config.lean ====
section
/-! DEFINITION. The parameters of the encoder (R5), their constraints (R6), the two named scan orders and the defaults.
The parameters are fixed when the block is built; they are constants, not state (R22). -/

namespace Sys2Proof.Config

/-- The parameters of R5, one configuration record. -/
structure Params where
  /-- `MAX_ROWS`: hard physical limit on rows, 1..63. -/
  maxRows : Nat
  /-- `MAX_COLS`: hard physical limit on columns, 1..63. -/
  maxCols : Nat
  /-- `W`: width in bits of a pixel's intensity field, 1..15. -/
  w : Nat
  /-- `MAX_INTENSITY`: largest intensity of the chip's domain, below `2^W`. -/
  maxIntensity : Nat
  /-- `HDR`: the fixed header bits of every transmission word, a `(16-W)`-bit number. -/
  hdr : Nat
  /-- `SCAN`: for a grid of the given rows and columns, the cell index of the `k`-th pixel sent (R32). -/
  scan : (rows cols k : Nat) → Nat
  /-- `LATCH_PULSES`: data pulses of the latch sequence, 1..255. -/
  latchPulses : Nat
  /-- `T_SETUP`, microseconds, 0..65535. -/
  tSetup : Nat
  /-- `T_HOLD`, microseconds, 0..65535. -/
  tHold : Nat
  /-- `T_LATCH_WAIT`, microseconds, 0..65535. -/
  tLatchWait : Nat
  /-- `T_LATCH_HI`, microseconds, 0..65535. -/
  tLatchHi : Nat
  /-- `T_LATCH_LO`, microseconds, 0..65535. -/
  tLatchLo : Nat

/-- The default scan order: row-major, left to right, top row first (R33). -/
def scanRowMajor (_rows _cols k : Nat) : Nat := k

/-- The serpentine scan order: every second row is sent right to left. SRC0 names it as a variant (R33, D7); the test
vector V-F6 uses it on a 2 by 2 grid. -/
def scanSerpentine (_rows cols k : Nat) : Nat :=
  if k / cols % 2 = 0 then k else k / cols * cols + (cols - 1 - k % cols)

/-- The `default` column of R5. -/
def defaultParams : Params where
  maxRows := 8
  maxCols := 8
  w := 8
  maxIntensity := 255
  hdr := 0
  scan := scanRowMajor
  latchPulses := 4
  tSetup := 1
  tHold := 1
  tLatchWait := 220
  tLatchHi := 1
  tLatchLo := 1

/-- The configuration of the machine `Sys2Proof.core`: the spec's defaults.
DESIGN CHOICE (log 5; unsafe for a build with other parameters): every operation of the model takes the parameters as an
argument, and only the meanings that `exec` calls and the step fix them here. -/
def params : Params := defaultParams

end Sys2Proof.Config
end

