-- ==== Sys2Proof/Syntax.lean ====
section
/-! DEFINITION. The five commands of the encoder (R42), one constructor per row of the opcode table. An operand has the
width of its field (R41), so a command that cannot be encoded cannot be written. -/

namespace Sys2Proof

/-- The commands of R42. `showFb` is SHOW (`show` is a word of Lean). -/
inductive Instr where
  /-- `INIT rows, cols, fill`: construct the frame buffer (R55). -/
  | init (rows cols : BitVec 6) (fill : BitVec 16)
  /-- `SET row, col, value`: write one pixel (R56). -/
  | set (row col : BitVec 6) (value : BitVec 16)
  /-- `GET row, col`: read one pixel (R57). -/
  | get (row col : BitVec 6)
  /-- `SCANRD k`: read the `k`-th pixel of the scan sequence (R58). -/
  | scanrd (k : BitVec 12)
  /-- `SHOW`: send the whole frame buffer and latch it (R62, R69). -/
  | showFb
  deriving DecidableEq, Repr

end Sys2Proof
end

