-- ==== Sys2Proof/WellFormed.lean ====
section
/-! DEFINITION. What makes a command and a configuration well formed. Every operand of `Instr` has the type of its field
(R41), so a command's only check is vacuous; the checks with content are those on the parameters (R5, R6). -/

namespace Sys2Proof

/-- Every command that can be written can be encoded: the operand types are the field widths of R41, and the reserved
fields of R44 (b), (c) are no operands. -/
def Instr.wellFormed : Instr → Bool
  | .init _ _ _ => true
  | .set _ _ _ => true
  | .get _ _ => true
  | .scanrd _ => true
  | .showFb => true

namespace Config

/-- `MAX_ROWS` and `MAX_COLS` are 1..63 (R5), so a cell index and a scan index fit in 12 bits (R6). -/
def Params.limitsOk (p : Params) : Bool :=
  decide (1 ≤ p.maxRows ∧ p.maxRows ≤ 63 ∧ 1 ≤ p.maxCols ∧ p.maxCols ≤ 63)

/-- `W` is 1..15 (R5). -/
def Params.widthOk (p : Params) : Bool :=
  decide (1 ≤ p.w ∧ p.w ≤ 15)

/-- `MAX_INTENSITY < 2^W` (R6). -/
def Params.intensityOk (p : Params) : Bool :=
  decide (p.maxIntensity < 2 ^ p.w)

/-- `HDR` is a `(16-W)`-bit constant (R5, R6). -/
def Params.headerOk (p : Params) : Bool :=
  decide (p.hdr < 2 ^ (16 - p.w))

/-- `LATCH_PULSES` is 1..255 (R5). -/
def Params.pulsesOk (p : Params) : Bool :=
  decide (1 ≤ p.latchPulses ∧ p.latchPulses ≤ 255)

/-- Each duration is 0..65535 microseconds (R5). -/
def Params.timesOk (p : Params) : Bool :=
  decide (p.tSetup ≤ 65535 ∧ p.tHold ≤ 65535 ∧ p.tLatchWait ≤ 65535 ∧ p.tLatchHi ≤ 65535 ∧ p.tLatchLo ≤ 65535)

/-- `SCAN` on a grid of `n` cells is a bijection on `{0..n-1}` (R6). -/
abbrev ScanBijective (f : Nat → Nat) (n : Nat) : Prop :=
  (∀ k < n, f k < n) ∧ (∀ k < n, ∀ j < n, f k = f j → k = j) ∧ (∀ i < n, ∃ k < n, f k = i)

/-- `SCAN` is total and bijective for every admissible grid (R6). -/
def Params.ScanOk (p : Params) : Prop :=
  ∀ rows cols, 1 ≤ rows → rows ≤ p.maxRows → 1 ≤ cols → cols ≤ p.maxCols →
    ScanBijective (p.scan rows cols) (rows * cols)

/-- All constraints of R5 and R6. -/
structure Params.Admissible (p : Params) : Prop where
  limits : p.limitsOk = true
  width : p.widthOk = true
  intensity : p.intensityOk = true
  header : p.headerOk = true
  pulses : p.pulsesOk = true
  times : p.timesOk = true
  scan : p.ScanOk

end Config

end Sys2Proof
end

