-- ==== Sys2Proof/Decode.lean ====
section
/-! DEFINITION. The decoder, total on all 2^32 command words (R44), and the encoder, both from R40 to R44. A command is one
32-bit word read at acceptance: there is one length, one format and no byte order (R53, R34). -/

namespace Sys2Proof

/-- The reasons of R44 for which a command word is illegal. Both are answered with status IllegalCommand (R91). -/
inductive IllegalWord where
  /-- R44 (a): `OP` is 0x0 or any of 0x6 to 0xF. -/
  | reservedOpcode (op : BitVec 4)
  /-- R44 (b), (c): a field the command does not use is not zero. -/
  | reservedFieldNotZero (op : BitVec 4)
  deriving DecidableEq, Repr

/-- `OP`, bits 31:28 (R41). -/
def fieldOp (c : CmdWord) : BitVec 4 := c.extractLsb' 28 4

/-- `ROW`, bits 27:22 (R41). -/
def fieldRow (c : CmdWord) : BitVec 6 := c.extractLsb' 22 6

/-- `COL`, bits 21:16 (R41). -/
def fieldCol (c : CmdWord) : BitVec 6 := c.extractLsb' 16 6

/-- `K`, bits 27:16 (R41), the same bits as `ROW ++ COL`. -/
def fieldK (c : CmdWord) : BitVec 12 := c.extractLsb' 16 12

/-- `VALUE`, bits 15:0 (R41). -/
def fieldValue (c : CmdWord) : BitVec 16 := c.extractLsb' 0 16

/-- Bits 27:0, which SHOW reserves (R44 (c)). -/
def fieldBelowOp (c : CmdWord) : BitVec 28 := c.extractLsb' 0 28

/-- The command a word stands for, or why it is illegal (R42, R44). -/
def decode (c : CmdWord) : Except IllegalWord Instr :=
  match (fieldOp c).toNat with
  | 1 => .ok (.init (fieldRow c) (fieldCol c) (fieldValue c))
  | 2 => .ok (.set (fieldRow c) (fieldCol c) (fieldValue c))
  | 3 => if fieldValue c = 0 then .ok (.get (fieldRow c) (fieldCol c)) else .error (.reservedFieldNotZero 3)
  | 4 => if fieldValue c = 0 then .ok (.scanrd (fieldK c)) else .error (.reservedFieldNotZero 4)
  | 5 => if fieldBelowOp c = 0 then .ok .showFb else .error (.reservedFieldNotZero 5)
  | _ => .error (.reservedOpcode (fieldOp c))

/-- The word of a command: `OP ++ ROW ++ COL ++ VALUE`, the unused fields zero (R40, R42). -/
def encode : Instr → CmdWord
  | .init rows cols fill => (0x1#4 ++ rows ++ cols ++ fill)
  | .set row col value => (0x2#4 ++ row ++ col ++ value)
  | .get row col => (0x3#4 ++ row ++ col ++ 0#16)
  | .scanrd k => (0x4#4 ++ k ++ 0#16)
  | .showFb => (0x5#4 ++ 0#28)

/-- One row of the opcode map of R42: a word `c` is the command when `c & mask = pattern`. -/
structure OpcodeRow where
  mnemonic : String
  pattern : CmdWord
  mask : CmdWord
  deriving DecidableEq, Repr

def rowInit : OpcodeRow := ⟨"INIT", 0x10000000#32, 0xF0000000#32⟩
def rowSet : OpcodeRow := ⟨"SET", 0x20000000#32, 0xF0000000#32⟩
def rowGet : OpcodeRow := ⟨"GET", 0x30000000#32, 0xF000FFFF#32⟩
def rowScanrd : OpcodeRow := ⟨"SCANRD", 0x40000000#32, 0xF000FFFF#32⟩
def rowShow : OpcodeRow := ⟨"SHOW", 0x50000000#32, 0xFFFFFFFF#32⟩

/-- The opcode map of R42. -/
def opcodeMap : List OpcodeRow := [rowInit, rowSet, rowGet, rowScanrd, rowShow]

/-- A row selects a word (R42). -/
def OpcodeRow.selects (r : OpcodeRow) (c : CmdWord) : Bool :=
  c &&& r.mask == r.pattern

/-- The row of R42 a command belongs to. -/
def Instr.row : Instr → OpcodeRow
  | .init _ _ _ => rowInit
  | .set _ _ _ => rowSet
  | .get _ _ => rowGet
  | .scanrd _ => rowScanrd
  | .showFb => rowShow

/-- The command word whose lowest `nbits` bits are those of `w`, every bit above zero. A command word is one 32-bit word, so
the table's numbering of bits is the word's own. -/
def tableWord (nbits w : Nat) : CmdWord :=
  BitVec.ofNat 32 (w % 2 ^ nbits)

/-- What the decoder reads from a word of the opcode table. -/
def decodeTableWord (nbits w : Nat) : Option Instr :=
  match decode (tableWord nbits w) with
  | .ok i => some i
  | .error _ => none

end Sys2Proof
end

