-- ==== Sys2Proof/Machine/State.lean ====
section
/-! DEFINITION. The state of the encoder (R13), its output ports (R45, R50), the observation of a command's trace (R11) and
the input signals still to come (R26), all plain data; and the state after reset (R24, R99). -/

namespace Sys2Proof.Machine

/-- A line-state register (R17). `X` is the level after a line write answered `fault`: unknown, and no rule and no claim
gives it a value. -/
inductive LineState where
  | L
  | H
  | X
  deriving DecidableEq, Repr

/-- The phases of the transmitter (R18). -/
inductive Phase where
  | idle
  | start
  | word
  | latch
  deriving DecidableEq, Repr

/-- A primitive operation (R11). -/
inductive Op where
  | setClk (v : Level)
  | setData (v : Level)
  | delay (us : Nat)
  deriving DecidableEq, Repr

/-- The environment's answer to a primitive operation (R7). -/
inductive Answer where
  | ok
  | fault
  deriving DecidableEq, Repr

/-- An event: an operation and its result (R11). -/
structure Event where
  op : Op
  answer : Answer
  deriving DecidableEq, Repr

/-- The eight statuses of R84; codes 8 to 15 are never produced, so they have no constructor (R45, U12). -/
inductive Status where
  | ok
  | invalidDimensions
  | outOfBounds
  | outOfRange
  | hardwareFault
  | notConfigured
  | alreadyConfigured
  | illegalCommand
  deriving DecidableEq, Repr

/-- A response `(STATUS, DATA)` (R45, R46). -/
structure Response where
  status : Status
  data : BitVec 16
  deriving DecidableEq, Repr

/-- The input signals of one step (R26, R47, R50, R99).
DESIGN CHOICE (log 1; safe): the host's and the environment's moves are data of the state, one entry a step, so that every
statement about a state holds for every behaviour of both. -/
structure Signals where
  /-- `rst` (R99). -/
  rst : Bool
  /-- `cmd_valid` with `cmd[31:0]`; `none` is `cmd_valid` low (R47). -/
  cmd : Option CmdWord
  /-- `line_fault`, sampled in the step of a line write (R50). -/
  lineFault : Bool
  /-- `dly_done` (R50). -/
  dlyDone : Bool
  /-- `dly_fault`, read when `dly_done` is high (R50). -/
  dlyFault : Bool
  deriving DecidableEq, Repr

/-- The frame buffer's cells: (cell index, value) pairs, indices strictly rising, a cell that holds no value not listed
(R16). The unit of every access is one cell, not a byte (R28; log 6). -/
abbrev Memory := List (Nat × Pixel)

/-- The encoder. -/
structure State where
  /-- `CFG`: INIT has succeeded since reset (R14). -/
  cfg : Bool
  /-- `ROWS` (R15). -/
  rows : BitVec 6
  /-- `COLS` (R15). -/
  cols : BitVec 6
  /-- `FB` (R16). -/
  fb : Memory
  /-- `CLK` (R17). -/
  clk : LineState
  /-- `DATA` (R17). -/
  data : LineState
  /-- `PHASE` (R18). -/
  phase : Phase
  /-- `WIDX` (R18). -/
  widx : BitVec 12
  /-- `BIDX` (R18). -/
  bidx : BitVec 4
  /-- `SUB` (R18). -/
  sub : BitVec 3
  /-- `PCNT` (R18). -/
  pcnt : BitVec 8
  /-- `WORD` (R19). -/
  word : TxWord
  /-- The level the pin `clk_o` carries (R50). -/
  clkO : Level
  /-- The level the pin `data_o` carries (R50). -/
  dataO : Level
  /-- The response on `rsp` when `rsp_valid` is high after the step just taken (R45, R47). -/
  rsp : Option Response
  /-- The primitive operation on the line or delay port in the step just taken (R50). -/
  op : Option Op
  /-- The trace of the current or last command (R11). Model's own field: an observation no rule reads (log 16). -/
  trace : List Event
  /-- The input signals still to come, one entry a step. Model's own field (log 1). -/
  inputs : List Signals
  deriving DecidableEq, Repr

/-- Why the model has no next state. Both are raised only in states no run from reset reaches (`Sys2Proof.EncoderInv`), where the
spec gives no effect; both are safe. -/
inductive Fault where
  /-- Raised by GET, SCANRD and the sequencer's load of `WORD`: the cell to be read holds no value, and a model must not give
  it one (R16, U3). Safe. -/
  | cellHoldsNoValue (index : Nat)
  /-- Raised by the sequencer at a `(PHASE, SUB)` outside the ranges of R18, for which no rule names an operation. Safe. -/
  | noOperation
  deriving DecidableEq, Repr

/-- Why an instruction has no meaning. -/
inductive Refusal where
  /-- Raised by an arm of `exec` whose instruction has no meaning yet; no arm uses it. Safe. -/
  | notModelled (mnemonic : String)
  deriving DecidableEq, Repr

/-- What a step or a command of this machine answers. -/
abbrev Outcome := Host.Outcome State Fault Refusal

/-- The state after reset (R24, R99). -/
def State.reset : State where
  cfg := false
  rows := 0
  cols := 0
  fb := []
  clk := .L
  data := .L
  phase := .idle
  widx := 0
  bidx := 0
  sub := 0
  pcnt := 0
  word := 0
  clkO := .L
  dataO := .L
  rsp := none
  op := none
  trace := []
  inputs := []

end Sys2Proof.Machine
end

