-- ==== Sys2Proof/Machine/Ops.lean ====
section
/-! DEFINITION. The named operations over memory, responses, line registers and the sequencer position. Reporting an error
(`State.raise`) is the one operation that takes an exception (R93); there is no return from one (R94). -/

namespace Sys2Proof.Machine

/-! ### The frame buffer's cells -/

/-- The form every cell list has: indices strictly rising. -/
abbrev Memory.wf (m : Memory) : Prop :=
  m.Pairwise (fun a b => a.1 < b.1)

/-- The value cell `i` holds, or none if it holds no value (R16). -/
def Memory.read (m : Memory) (i : Nat) : Option Pixel :=
  match m with
  | [] => none
  | (j, v) :: rest => if i = j then some v else Memory.read rest i

/-- Cell `i` holds `v` (R10, `FB[i] <- v`). -/
def Memory.write (m : Memory) (i : Nat) (v : Pixel) : Memory :=
  match m with
  | [] => [(i, v)]
  | (j, u) :: rest =>
    if i < j then (i, v) :: (j, u) :: rest
    else if i = j then (i, v) :: rest
    else (j, u) :: Memory.write rest i v

/-- Cells `0..n-1` hold `v` (R55). -/
def Memory.fill (m : Memory) (v : Pixel) (n : Nat) : Memory :=
  match n with
  | 0 => m
  | k + 1 => Memory.write (Memory.fill m v k) k v

/-- `v[W-1:0]`, extended with zeros (R61). -/
def lowBits (w : Nat) (v : BitVec 16) : Pixel :=
  BitVec.ofNat 16 (v.toNat % 2 ^ w)

/-! ### Responses -/

/-- The code of a status (R84). -/
def Status.code : Status → BitVec 4
  | .ok => 0
  | .invalidDimensions => 1
  | .outOfBounds => 2
  | .outOfRange => 3
  | .hardwareFault => 4
  | .notConfigured => 5
  | .alreadyConfigured => 6
  | .illegalCommand => 7

/-- The 32-bit response word: zero[31:20], STATUS[19:16], DATA[15:0] (R45). -/
def Response.toWord (r : Response) : RspWord :=
  0#12 ++ r.status.code ++ r.data

/-- `respond(OK, data)` (R10). -/
def State.respond (s : State) (data : BitVec 16) : State :=
  { s with rsp := some ⟨.ok, data⟩ }

/-- `raise <Status>(info)`: the command ends with this response and writes no state (R10, R93). -/
def State.raise (s : State) (status : Status) (info : BitVec 16) : State :=
  { s with rsp := some ⟨status, info⟩ }

/-! ### Line registers, pins and trace -/

/-- The line-state value of a driven level (R17). -/
def LineState.ofLevel : Level → LineState
  | .L => .L
  | .H => .H

/-- The line register after a write of `v` with the given answer: `v` on `ok`, `X` on `fault` (R68). -/
def lineAfter (v : Level) (r : Answer) : LineState :=
  match r with
  | .ok => .ofLevel v
  | .fault => .X

/-- The fault source code of an operation (R68, `Src`; R88). -/
def Op.source : Op → BitVec 16
  | .setClk _ => 1
  | .setData _ => 2
  | .delay _ => 3

/-- One operation answered: the line register and the pin of a line write (R17, R50, R68), the operation on the port and
the event at the end of the trace (R11). The pin carries the requested level whatever the answer (R50). -/
def State.perform (s : State) (o : Op) (r : Answer) : State :=
  let s := { s with op := some o, trace := s.trace ++ [⟨o, r⟩] }
  match o with
  | .setClk v => { s with clk := lineAfter v r, clkO := v }
  | .setData v => { s with data := lineAfter v r, dataO := v }
  | .delay _ => s

/-- The answer the input signals give an operation in this step (R50): a line write is answered in the step of the write;
a delay is answered when `dly_done` is high, and until then there is no answer (log 12). -/
def Signals.answer (i : Signals) (o : Op) : Option Answer :=
  let verdict (bad : Bool) : Answer := if bad then .fault else .ok
  match o with
  | .setClk _ => some (verdict i.lineFault)
  | .setData _ => some (verdict i.lineFault)
  | .delay _ => if i.dlyDone then some (verdict i.dlyFault) else none

/-! ### The sequencer position -/

/-- `SEQ <- (Idle, 0, 0, 0, 0)` and `WORD <- 0`: the canonical Idle of R23. -/
def State.toIdle (s : State) : State :=
  { s with phase := .idle, widx := 0, bidx := 0, sub := 0, pcnt := 0, word := 0 }

/-- `SEQ <- (Start, 0, 0, 0, 0)` (R70). -/
def State.toStart (s : State) : State :=
  { s with phase := .start, widx := 0, bidx := 0, sub := 0, pcnt := 0 }

/-- `SEQ <- (Word, k, 15, 0, 0)` and `WORD <- w` (R71, R73). -/
def State.toWord (s : State) (k : BitVec 12) (w : TxWord) : State :=
  { s with phase := .word, widx := k, bidx := 15, sub := 0, pcnt := 0, word := w }

/-- `SEQ <- (Latch, 0, 0, 0, 0)` and `WORD <- 0` (R73). -/
def State.toLatch (s : State) : State :=
  { s with phase := .latch, widx := 0, bidx := 0, sub := 0, pcnt := 0, word := 0 }

/-! ### Reset and the start of a step -/

/-- The state a step in which `rst` is high leaves, whatever it was before (R99, R100); `rest` is what the outside does
after that step. -/
def State.afterReset (rest : List Signals) : State :=
  { State.reset with inputs := rest }

/-- The outputs that are high for one step only go low, and the step's signals are used up (R47, R50). -/
def State.beginStep (s : State) (rest : List Signals) : State :=
  { s with rsp := none, op := none, inputs := rest }

/-- A command is accepted: as `beginStep`, and its trace begins empty (R11, R47). -/
def State.accept (s : State) (rest : List Signals) : State :=
  { s with rsp := none, op := none, trace := [], inputs := rest }

end Sys2Proof.Machine
end

