-- ==== Sys2Proof/Machine/Operands.lean ====
section
/-! DEFINITION. Addresses and the words they lead to: the cell index of a pair (R29), the cell of a scan index (R32), the
bounds (R30), the scan sequence (R32) and the transmission word (R48). All on natural numbers, exact (R9, R61). -/

namespace Sys2Proof.Machine

open Sys2Proof.Config (Params)

/-- `N = ROWS * COLS` (R10). -/
def State.cells (s : State) : Nat :=
  s.rows.toNat * s.cols.toNat

/-- `Idx(row, col) = row * COLS + col` (R29). -/
def State.cellIndex (s : State) (row col : BitVec 6) : Nat :=
  row.toNat * s.cols.toNat + col.toNat

/-- Each coordinate is checked on its own (R30). -/
def State.inBounds (s : State) (row col : BitVec 6) : Bool :=
  decide (row.toNat < s.rows.toNat) && decide (col.toNat < s.cols.toNat)

/-- `SCAN(k)` on the present grid (R32). -/
def State.scanIndex (p : Params) (s : State) (k : Nat) : Nat :=
  p.scan s.rows.toNat s.cols.toNat k

/-- `FB[SCAN(k)]`, if the cell holds a value (R32, R58). -/
def State.scanPixel (p : Params) (s : State) (k : Nat) : Option Pixel :=
  s.fb.read (s.scanIndex p k)

/-- `ScanSeq(FB)`, if every cell holds a value (R32). -/
def State.scanSeq (p : Params) (s : State) : Option (List Pixel) :=
  (List.range s.cells).mapM (s.scanPixel p)

/-- `Word(v) = HDR ++ v[W-1:0]`, that is `HDR * 2^W + v` (R48). -/
def txWord (p : Params) (v : Pixel) : TxWord :=
  BitVec.ofNat 16 (p.hdr * 2 ^ p.w + v.toNat % 2 ^ p.w)

end Sys2Proof.Machine
end

