-- ==== Sys2Proof/Machine/Flags.lean ====
section
/-! DEFINITION. The condition results of the encoder. It has no flags and no condition codes (R20); what a command's checks
decide is its status, in the order of R92: the configuration, then the address or the dimensions, then the value. -/

namespace Sys2Proof.Machine

open Sys2Proof.Config (Params)

/-- INIT's dimensions are legal (R55, R85). -/
def dimensionsOk (p : Params) (rows cols : BitVec 6) : Bool :=
  decide (rows.toNat ≠ 0 ∧ rows.toNat ≤ p.maxRows ∧ cols.toNat ≠ 0 ∧ cols.toNat ≤ p.maxCols)

/-- A value is in the chip's domain, compared as a 16-bit number (R31, R61). -/
def valueOk (p : Params) (v : BitVec 16) : Bool :=
  decide (v.toNat ≤ p.maxIntensity)

/-- The status INIT's checks decide (R55). -/
def initStatus (p : Params) (s : State) (rows cols : BitVec 6) (fill : BitVec 16) : Status :=
  if s.cfg then .alreadyConfigured
  else if !dimensionsOk p rows cols then .invalidDimensions
  else if !valueOk p fill then .outOfRange
  else .ok

/-- The status SET's checks decide (R56). -/
def setStatus (p : Params) (s : State) (row col : BitVec 6) (value : BitVec 16) : Status :=
  if !s.cfg then .notConfigured
  else if !s.inBounds row col then .outOfBounds
  else if !valueOk p value then .outOfRange
  else .ok

/-- The status GET's checks decide (R57). -/
def getStatus (s : State) (row col : BitVec 6) : Status :=
  if !s.cfg then .notConfigured
  else if !s.inBounds row col then .outOfBounds
  else .ok

/-- The status SCANRD's checks decide (R58). -/
def scanrdStatus (s : State) (k : BitVec 12) : Status :=
  if !s.cfg then .notConfigured
  else if s.cells ≤ k.toNat then .outOfBounds
  else .ok

/-- The status SHOW's one check decides before anything is issued (R69). -/
def showStatus (s : State) : Status :=
  if !s.cfg then .notConfigured else .ok

end Sys2Proof.Machine
end

