-- ==== Sys2Proof/Machine/FrameBuffer.lean ====
section
/-! DEFINITION. INIT, SET, GET and SCANRD (R54 to R58). Each makes its checks and then acts in one step; an error writes no
state (R54). The `…At` forms take the parameters; the meanings `exec` calls fix them to `Config.params`. -/

namespace Sys2Proof.Machine

open Sys2Proof.Config (Params)

/-- INIT's writes: `ROWS`, `COLS`, every cell below `rows * cols`, `CFG` (R55). -/
def State.build (s : State) (p : Params) (rows cols : BitVec 6) (fill : BitVec 16) : State :=
  { s with
    cfg := true
    rows := rows
    cols := cols
    fb := s.fb.fill (lowBits p.w fill) (rows.toNat * cols.toNat) }

/-- INIT (R55). -/
def initAt (p : Params) (rows cols : BitVec 6) (fill : BitVec 16) (s : State) : Outcome :=
  match initStatus p s rows cols fill with
  | .ok => .next ((s.build p rows cols fill).respond 0)
  | e => .next (s.raise e 0)

/-- SET's write: the one cell `Idx(row, col)` (R56). -/
def State.putPixel (s : State) (p : Params) (row col : BitVec 6) (value : BitVec 16) : State :=
  { s with fb := s.fb.write (s.cellIndex row col) (lowBits p.w value) }

/-- SET (R56). -/
def setAt (p : Params) (row col : BitVec 6) (value : BitVec 16) (s : State) : Outcome :=
  match setStatus p s row col value with
  | .ok => .next ((s.putPixel p row col value).respond 0)
  | e => .next (s.raise e 0)

/-- The response that carries a cell's value, extended with zeros (R46). A cell that holds no value is not read (R16, U3;
log 7). -/
def State.respondCell (s : State) (i : Nat) : Outcome :=
  match s.fb.read i with
  | some v => .next (s.respond v)
  | none => .fault (.cellHoldsNoValue i)

/-- GET (R57). -/
def getAt (row col : BitVec 6) (s : State) : Outcome :=
  match getStatus s row col with
  | .ok => s.respondCell (s.cellIndex row col)
  | e => .next (s.raise e 0)

/-- SCANRD (R58). -/
def scanrdAt (p : Params) (k : BitVec 12) (s : State) : Outcome :=
  match scanrdStatus s k with
  | .ok => s.respondCell (s.scanIndex p k.toNat)
  | e => .next (s.raise e 0)

/-- The meaning of INIT (R55). -/
def execInit (rows cols : BitVec 6) (fill : BitVec 16) (s : State) : Outcome :=
  initAt Config.params rows cols fill s

/-- The meaning of SET (R56). -/
def execSet (row col : BitVec 6) (value : BitVec 16) (s : State) : Outcome :=
  setAt Config.params row col value s

/-- The meaning of GET (R57). -/
def execGet (row col : BitVec 6) (s : State) : Outcome :=
  getAt row col s

/-- The meaning of SCANRD (R58). -/
def execScanrd (k : BitVec 12) (s : State) : Outcome :=
  scanrdAt Config.params k s

end Sys2Proof.Machine
end

