-- ==== Sys2Proof/Machine/Show.lean ====
section
/-! DEFINITION. SHOW: the operation lists (R63 to R67), their execution as a whole (R68, R69), and the meaning of the command,
which leaves Idle and hands over to the sequencer (R70). -/

namespace Sys2Proof.Machine

open Sys2Proof.Config (Params)

/-- `StartOps` (R63). -/
def startOps : List Op :=
  [.setClk .L, .setData .L]

/-- `BitOps(b)` (R64). -/
def bitOps (p : Params) (b : Bool) : List Op :=
  [.setData (levelOfBit b), .delay p.tSetup, .setClk .H, .delay p.tHold, .setClk .L]

/-- The operations of bits `n-1` down to 0 of a word (R65). -/
def bitsOps (p : Params) (w : TxWord) (n : Nat) : List Op :=
  match n with
  | 0 => []
  | k + 1 => bitOps p (w.getLsbD k) ++ bitsOps p w k

/-- `WordOps(w)`, most significant bit first (R65). -/
def wordOps (p : Params) (w : TxWord) : List Op :=
  bitsOps p w 16

/-- One latch pulse (R66). -/
def pulseOps (p : Params) : List Op :=
  [.setData .H, .delay p.tLatchHi, .setData .L, .delay p.tLatchLo]

/-- `n` latch pulses (R66). -/
def pulsesOps (p : Params) (n : Nat) : List Op :=
  match n with
  | 0 => []
  | k + 1 => pulseOps p ++ pulsesOps p k

/-- `LatchOps` (R66). -/
def latchOps (p : Params) : List Op :=
  [.setData .L, .delay p.tLatchWait] ++ pulsesOps p p.latchPulses

/-- The words of a scan sequence, one after the other with nothing between (R49, R67). -/
def wordsOps (p : Params) (pixels : List Pixel) : List Op :=
  pixels.flatMap (fun v => wordOps p (txWord p v))

/-- `ShowOps` of a scan sequence (R67). -/
def showOps (p : Params) (pixels : List Pixel) : List Op :=
  startOps ++ wordsOps p pixels ++ latchOps p

/-- `Run(ops)` (R68): the operations in order, each answered by the input signals of the step in which its result comes
back. `none`: the signals run out before the list is done. Else the state with the operations performed, the signals that
are left, and the source code of the operation that faulted, if one did. -/
def runOps (ops : List Op) (ins : List Signals) (s : State) : Option (State × List Signals × Option (BitVec 16)) :=
  match ins with
  | [] =>
    match ops with
    | [] => some (s, [], none)
    | _ :: _ => none
  | i :: rest =>
    match ops with
    | [] => some (s, i :: rest, none)
    | o :: more =>
      match i.answer o with
      | none => runOps (o :: more) rest s
      | some .ok => runOps more rest (s.perform o .ok)
      | some .fault => some (s.perform o .fault, rest, some o.source)

/-- A transmission as a whole (R69, after the check of `CFG`): the operations of `ShowOps` run, `SEQ` and `WORD` at their
Idle zeros, and the response. `none`: a cell holds no value, or the signals run out first. -/
def transmitWhole (p : Params) (s : State) : Option State :=
  match s.scanSeq p with
  | none => none
  | some pixels =>
    match runOps (showOps p pixels) s.inputs s with
    | none => none
    | some (t, rest, none) => some (({ t.toIdle with inputs := rest }).respond 0)
    | some (t, rest, some src) => some (({ t.toIdle with inputs := rest }).raise .hardwareFault src)

/-- SHOW (R69, R70): refused when not configured; else `SEQ <- (Start, 0, 0, 0, 0)`, no operation yet. The operations are
the sequencer's, one a step (R71 to R76), and the response is given after the last one (R69). -/
def showAt (s : State) : Outcome :=
  match showStatus s with
  | .ok => .next s.toStart
  | e => .next (s.raise e 0)

/-- The meaning of SHOW (R69, R70). -/
def execShow (s : State) : Outcome :=
  showAt s

end Sys2Proof.Machine
end

