-- ==== Sys2Proof/Machine/Dispatch.lean ====
section
/-! DEFINITION. Which meaning each command has (R42). -/

namespace Sys2Proof.Machine

def exec (i : Instr) (s : State) : Host.Outcome State Fault Refusal :=
  match i with
  | .init rows cols fill => Sys2Proof.Machine.execInit rows cols fill s
  | .set row col value => Sys2Proof.Machine.execSet row col value s
  | .get row col => Sys2Proof.Machine.execGet row col s
  | .scanrd k => Sys2Proof.Machine.execScanrd k s
  | .showFb => Sys2Proof.Machine.execShow s

end Sys2Proof.Machine
end

