-- ==== Sys2Proof/Machine/Sequencer.lean ====
section
/-! DEFINITION. The transmitter's sequencer (R70 to R76): the operation a position selects, the advance on `ok`, the abort on
`fault`, and one step of it. -/

namespace Sys2Proof.Machine

open Sys2Proof.Config (Params)

/-- The operation of the Start phase (R71). -/
def startOp (sub : Nat) : Option Op :=
  match sub with
  | 0 => some (.setClk .L)
  | 1 => some (.setData .L)
  | _ => none

/-- The operation of the Word phase on the bit being sent (R72, R73). -/
def wordOp (p : Params) (bit : Bool) (sub : Nat) : Option Op :=
  match sub with
  | 0 => some (.setData (levelOfBit bit))
  | 1 => some (.delay p.tSetup)
  | 2 => some (.setClk .H)
  | 3 => some (.delay p.tHold)
  | 4 => some (.setClk .L)
  | _ => none

/-- The operation of the Latch phase (R74, R75). -/
def latchOp (p : Params) (sub : Nat) : Option Op :=
  match sub with
  | 0 => some (.setData .L)
  | 1 => some (.delay p.tLatchWait)
  | 2 => some (.setData .H)
  | 3 => some (.delay p.tLatchHi)
  | 4 => some (.setData .L)
  | 5 => some (.delay p.tLatchLo)
  | _ => none

/-- The operation the sequencer position selects; none in Idle and at a position outside R18's ranges (log 8). -/
def State.currentOp (p : Params) (s : State) : Option Op :=
  match s.phase with
  | .idle => none
  | .start => startOp s.sub.toNat
  | .word => wordOp p (s.word.getLsbD s.bidx.toNat) s.sub.toNat
  | .latch => latchOp p s.sub.toNat

/-- The word of scan index `k` starts: `SEQ <- (Word, k, 15, 0, 0)`, `WORD <- Word(FB[SCAN(k)])` (R71, R73). -/
def State.enterWord (p : Params) (s : State) (k : BitVec 12) : Outcome :=
  match s.scanPixel p k.toNat with
  | some v => .next (s.toWord k (txWord p v))
  | none => .fault (.cellHoldsNoValue (s.scanIndex p k.toNat))

/-- The end of a bit (R73): the next bit, the next word, or the latch. -/
def State.endBit (p : Params) (s : State) : Outcome :=
  if 0 < s.bidx.toNat then .next { s with bidx := s.bidx - 1, sub := 0 }
  else if s.widx.toNat + 1 < s.cells then s.enterWord p (s.widx + 1)
  else .next s.toLatch

/-- The end of a latch pulse (R75): another pulse, or Idle and the response. -/
def State.endPulse (p : Params) (s : State) : Outcome :=
  if s.pcnt.toNat + 1 < p.latchPulses then .next { s with pcnt := s.pcnt + 1, sub := 2 }
  else .next (s.toIdle.respond 0)

/-- The advance of the sequencer after an operation answered `ok` (R71 to R75). -/
def State.advance (p : Params) (s : State) : Outcome :=
  match s.phase with
  | .idle => .fault .noOperation
  | .start => if s.sub.toNat = 0 then .next { s with sub := 1 } else s.enterWord p 0
  | .word => if s.sub.toNat < 4 then .next { s with sub := s.sub + 1 } else s.endBit p
  | .latch => if s.sub.toNat < 5 then .next { s with sub := s.sub + 1 } else s.endPulse p

/-- The abort after an operation answered `fault`: back to Idle at once, nothing more issued (R76). -/
def State.abort (s : State) (o : Op) : State :=
  s.toIdle.raise .hardwareFault o.source

/-- One step of the sequencer under the given signals: the operation of the position is issued; on `ok` the sequencer
advances, on `fault` it aborts; a delay not yet answered stays on the port (R50, R68, R76). `s` is the state with the step
begun. -/
def State.sequence (p : Params) (s : State) (i : Signals) : Outcome :=
  match s.currentOp p with
  | none => .fault .noOperation
  | some o =>
    match i.answer o with
    | none => .next { s with op := some o }
    | some .ok => (s.perform o .ok).advance p
    | some .fault => .next ((s.perform o .fault).abort o)

end Sys2Proof.Machine
end

