-- ==== Sys2Proof/Machine/Ports.lean ====
section
/-! DEFINITION. The ports: the output signals as functions of the state (R45, R47, R50), the command port's handshake (R47)
and what the encoder does in one step under that step's input signals (R8, R20, R99). -/

namespace Sys2Proof.Machine

open Sys2Proof.Config (Params)

/-- `cmd_ready`: high exactly when the encoder is not busy and not in reset (R20, R47, R99). -/
def State.cmdReady (s : State) (i : Signals) : Bool :=
  !i.rst && decide (s.phase = .idle)

/-- `rsp_valid` after the step just taken (R47). -/
def State.rspValid (s : State) : Bool :=
  s.rsp.isSome

/-- `rsp[31:0]`, when `rsp_valid` is high (R45). -/
def State.rspWord (s : State) : Option RspWord :=
  s.rsp.map Response.toWord

/-- `line_wr`: a line write was made in the step just taken (R50). -/
def State.lineWr (s : State) : Bool :=
  match s.op with
  | some (.setClk _) => true
  | some (.setData _) => true
  | _ => false

/-- `line_sel`, valid with `line_wr`: 0 = clock line, 1 = data line (R50). -/
def State.lineSel (s : State) : Option (BitVec 1) :=
  match s.op with
  | some (.setClk _) => some 0
  | some (.setData _) => some 1
  | _ => none

/-- `dly_req`: a delay was on the delay port in the step just taken (R50). -/
def State.dlyReq (s : State) : Bool :=
  match s.op with
  | some (.delay _) => true
  | _ => false

/-- `dly_us[15:0]`, valid with `dly_req` (R50; log 20). -/
def State.dlyUs (s : State) : Option (BitVec 16) :=
  match s.op with
  | some (.delay d) => some (BitVec.ofNat 16 d)
  | _ => none

/-- An accepted word: an illegal one is answered IllegalCommand and changes nothing (R44, R91); a command is executed. `s`
is the state with the command accepted. -/
def State.execute (s : State) (c : CmdWord) : Outcome :=
  match decode c with
  | .error _ => .next (s.raise .illegalCommand 0)
  | .ok i => exec i s

/-- The command port in a step in which `cmd_ready` is high: nothing offered, or a word accepted (R47). -/
def State.listen (s : State) (i : Signals) (rest : List Signals) : Outcome :=
  match i.cmd with
  | none => .next (s.beginStep rest)
  | some c => (s.accept rest).execute c

/-- One step under the signals `i`: reset overrides everything (R99, R100); in Idle the command port listens (R47); else
the sequencer takes a step and the command port sees nothing (R20, R47). -/
def State.react (s : State) (i : Signals) (rest : List Signals) : Outcome :=
  if i.rst then .next (State.afterReset rest)
  else
    match s.phase with
    | .idle => s.listen i rest
    | _ => (s.beginStep rest).sequence Config.params i

/-- One step. With no signals left the outside has made no further move: an encoder in Idle waits for a command, one in a
SHOW waits for an answer, and nothing changes (R99, U10; log 2). -/
def State.cycle (s : State) : Outcome :=
  match s.inputs with
  | [] => .next s
  | i :: rest => s.react i rest

/-- Signals of a step in which the host offers the word `c`, reset is low, and the environment signals nothing. -/
def Signals.offer (c : CmdWord) : Signals :=
  { rst := false, cmd := some c, lineFault := false, dlyDone := false, dlyFault := false }

/-- `s` with the word `c` offered in its next step and accepted there: the sequencer in Idle, `cmd_valid` high with `c`,
reset low, the other signals of that step and all later ones as they were (log 9, log 10). -/
def State.offerWord (s : State) (c : CmdWord) : State :=
  match s.inputs with
  | [] => { s.toIdle with inputs := [.offer c] }
  | i :: rest => { s.toIdle with inputs := { i with rst := false, cmd := some c } :: rest }

end Sys2Proof.Machine
end

