-- ==== Sys2Proof/Machine/Step.lean ====
section
/-! DEFINITION. The step of the machine, and how a command word is put where the step takes its next command from. -/

namespace Sys2Proof.Machine

/-- One step of the encoder under the input signals that stand first in the state (R8). -/
def step (s : State) : Host.Outcome State Fault Refusal :=
  s.cycle

/-- `s` with the table's word offered on the command port in its next step, where it is accepted. A command word is never
fetched from memory (R39), so this stands for the host's move (log 9). -/
def State.withFetchWord (s : State) (nbits w : Nat) : State :=
  s.offerWord (tableWord nbits w)

end Sys2Proof.Machine
end

