-- ==== Sys2Proof/Machine/Assembler.lean ====
section
/-! DEFINITION. The spec's notation for commands and programs (R51) and its two pseudo-commands (R52). Not part of the block:
a reader of programs written in the spec's syntax. Blanks beside a comma or at the ends of a line are skipped (log 19). -/

namespace Sys2Proof.Machine

/-- A line of a program: a command or a pseudo-command (R51, R52). -/
inductive AsmLine where
  | command (i : Instr)
  /-- `SCANALL`: `SCANRD 0` to `SCANRD N-1`. -/
  | scanAll
  /-- `CLEAR v`: `SET r, c, v` for every in-bounds pair, row-major. -/
  | clear (v : BitVec 16)
  deriving DecidableEq, Repr

/-- The commands `SCANALL` expands to on a grid of `n` cells (R52). -/
def scanAllCommands (n : Nat) : List Instr :=
  (List.range n).map (fun k => .scanrd (BitVec.ofNat 12 k))

/-- The commands `CLEAR v` expands to on a grid (R52). -/
def clearCommands (rows cols : Nat) (v : BitVec 16) : List Instr :=
  (List.range rows).flatMap (fun r =>
    (List.range cols).map (fun c => .set (BitVec.ofNat 6 r) (BitVec.ofNat 6 c) v))

/-- The commands a line stands for on a grid of the given dimensions (R52). -/
def expandLine (rows cols : Nat) (l : AsmLine) : List Instr :=
  match l with
  | .command i => [i]
  | .scanAll => scanAllCommands (rows * cols)
  | .clear v => clearCommands rows cols v

/-- The name SRC0 gives the operation of a command (R42, R52). -/
def sourceName (i : Instr) : String :=
  match i with
  | .init _ _ _ => "new"
  | .set _ _ _ => "set"
  | .get _ _ => "get"
  | .scanrd _ => "iter_in_scan_order"
  | .showFb => "show"

/-- The value of a decimal or hexadecimal digit. -/
def digitValue (c : Char) : Option Nat :=
  if '0'.toNat ≤ c.toNat ∧ c.toNat ≤ '9'.toNat then some (c.toNat - '0'.toNat)
  else if 'a'.toNat ≤ c.toNat ∧ c.toNat ≤ 'f'.toNat then some (c.toNat - 'a'.toNat + 10)
  else if 'A'.toNat ≤ c.toNat ∧ c.toNat ≤ 'F'.toNat then some (c.toNat - 'A'.toNat + 10)
  else none

/-- Digits in the given base, most significant first, onto the number read so far. -/
def digitsValue (base : Nat) (acc : Nat) (cs : List Char) : Option Nat :=
  match cs with
  | [] => some acc
  | c :: rest =>
    match digitValue c with
    | some d => if d < base then digitsValue base (acc * base + d) rest else none
    | none => none

/-- A decimal or `0x` hexadecimal number (R9, R51). -/
def numberValue (cs : List Char) : Option Nat :=
  match cs with
  | [] => none
  | '0' :: 'x' :: d :: rest => digitsValue 16 0 (d :: rest)
  | c :: rest => digitsValue 10 0 (c :: rest)

/-- The line without the blanks at its ends. -/
def trimBlanks (cs : List Char) : List Char :=
  ((cs.dropWhile (· == ' ')).reverse.dropWhile (· == ' ')).reverse

/-- The pieces between commas. -/
def splitCommas (cs : List Char) : List (List Char) :=
  cs.foldr (fun c acc =>
    if c = ',' then [] :: acc
    else
      match acc with
      | [] => [[c]]
      | p :: ps => (c :: p) :: ps) [[]]

/-- The operands of a line: numbers separated by commas, or none. -/
def operandValues (cs : List Char) : Option (List Nat) :=
  if trimBlanks cs = [] then some [] else (splitCommas cs).mapM (fun p => numberValue (trimBlanks p))

/-- A number as a field of the given width, if it fits (R41). -/
def fieldOf (w n : Nat) : Option (BitVec w) :=
  if n < 2 ^ w then some (BitVec.ofNat w n) else none

/-- The line a mnemonic and its operands stand for (R51, R52). -/
def lineOf (mnemonic : List Char) (operands : List Nat) : Option AsmLine :=
  if mnemonic = "INIT".toList then
    match operands with
    | [r, c, v] => do return .command (.init (← fieldOf 6 r) (← fieldOf 6 c) (← fieldOf 16 v))
    | _ => none
  else if mnemonic = "SET".toList then
    match operands with
    | [r, c, v] => do return .command (.set (← fieldOf 6 r) (← fieldOf 6 c) (← fieldOf 16 v))
    | _ => none
  else if mnemonic = "GET".toList then
    match operands with
    | [r, c] => do return .command (.get (← fieldOf 6 r) (← fieldOf 6 c))
    | _ => none
  else if mnemonic = "SCANRD".toList then
    match operands with
    | [k] => do return .command (.scanrd (← fieldOf 12 k))
    | _ => none
  else if mnemonic = "SHOW".toList then
    match operands with
    | [] => some (.command .showFb)
    | _ => none
  else if mnemonic = "SCANALL".toList then
    match operands with
    | [] => some .scanAll
    | _ => none
  else if mnemonic = "CLEAR".toList then
    match operands with
    | [v] => do return .clear (← fieldOf 16 v)
    | _ => none
  else none

/-- One line in the syntax of R51. -/
def parseLine (line : String) : Option AsmLine :=
  let cs := trimBlanks line.toList
  match operandValues (cs.dropWhile (· != ' ')) with
  | some ns => lineOf (cs.takeWhile (· != ' ')) ns
  | none => none

/-- The signals of a host that offers these commands one a step, none of them SHOW: each is answered in its own step, so
each is accepted only after the response to the one before (R47, R51). -/
def offerAll (is : List Instr) : List Signals :=
  is.map (fun i => .offer (encode i))

end Sys2Proof.Machine
end

