-- ==== Sys2Proof/Safety.lean ====
section
/-! DEFINITION. The terms in which claims speak: the invariants of R25, what a trace shows (R78 to R80, R110), the order of a
command's complaints (R92), and which parts of two states a transmission may depend on (R82). -/

namespace Sys2Proof

open Sys2Proof.Config (Params)
open Sys2Proof.Machine

/-! ### Invariants (R25) -/

/-- R25.1 and R15, R16: with `CFG = 0` the dimensions are 0, no cell holds a value and the transmitter is in Idle. -/
def InvUnconfigured (s : State) : Prop :=
  s.cfg = false → s.rows = 0 ∧ s.cols = 0 ∧ s.fb = [] ∧ s.phase = .idle

/-- R25.2: with `CFG = 1` the dimensions are legal and every existing cell holds a value of the domain; no other cell is
listed (R16). -/
def InvConfigured (p : Params) (s : State) : Prop :=
  s.cfg = true →
    (1 ≤ s.rows.toNat ∧ s.rows.toNat ≤ p.maxRows) ∧ (1 ≤ s.cols.toNat ∧ s.cols.toNat ≤ p.maxCols) ∧
    (∀ i < s.cells, ∃ v, s.fb.read i = some v ∧ v.toNat ≤ p.maxIntensity) ∧
    (∀ i, s.cells ≤ i → s.fb.read i = none)

/-- R18, R23 and R25.3 to R25.5: the sequencer registers in each phase. The latch pulses are counted from sub-step 2 on, so
`PCNT` is 0 before it (R77's table). -/
def InvSequencer (p : Params) (s : State) : Prop :=
  match s.phase with
  | .idle => s.widx = 0 ∧ s.bidx = 0 ∧ s.sub = 0 ∧ s.pcnt = 0 ∧ s.word = 0
  | .start => s.widx = 0 ∧ s.bidx = 0 ∧ s.sub.toNat ≤ 1 ∧ s.pcnt = 0 ∧ s.word = 0
  | .word => s.widx.toNat < s.cells ∧ s.sub.toNat ≤ 4 ∧ s.pcnt = 0 ∧
      (s.scanPixel p s.widx.toNat).map (txWord p) = some s.word
  | .latch => s.widx = 0 ∧ s.bidx = 0 ∧ s.sub.toNat ≤ 5 ∧ s.pcnt.toNat < p.latchPulses ∧ s.word = 0 ∧
      (s.sub.toNat < 2 → s.pcnt = 0)

/-- R17, R50: a line register that is known is the level its pin carries. -/
def InvPins (s : State) : Prop :=
  (s.clk = .X ∨ s.clk = .ofLevel s.clkO) ∧ (s.data = .X ∨ s.data = .ofLevel s.dataO)

/-- The invariants of R25 and R23, with the form of the cell list. -/
structure EncoderInv (p : Params) (s : State) : Prop where
  wf : s.fb.wf
  unconfigured : InvUnconfigured s
  configured : InvConfigured p s
  sequencer : InvSequencer p s
  pins : InvPins s

/-- A step or a command that does not stop the machine. -/
def Continues (o : Outcome) : Prop :=
  ∃ t, o = .next t

/-! ### The reset state (R24, R99) -/

/-- Every row of R24's table, and the outputs R99 names. The last field, the empty trace, is the model's own (log 16, DESIGN
CHOICE): R24 and R99 give it no value. -/
structure IsResetState (s : State) : Prop where
  cfg : s.cfg = false
  rows : s.rows = 0
  cols : s.cols = 0
  cells : ∀ i, s.fb.read i = none
  clk : s.clk = .L
  data : s.data = .L
  pins : s.clkO = .L ∧ s.dataO = .L
  phase : s.phase = .idle
  position : s.widx = 0 ∧ s.bidx = 0 ∧ s.sub = 0 ∧ s.pcnt = 0
  word : s.word = 0
  response : s.rspValid = false
  ports : s.lineWr = false ∧ s.dlyReq = false
  trace : s.trace = []

/-! ### Signals -/

/-- A step in which every operation is answered `ok` and reset is low; a command may be offered. -/
def Machine.Signals.allOk (i : Signals) : Bool :=
  !i.rst && !i.lineFault && i.dlyDone && !i.dlyFault

/-- A step in which every operation is answered, one way or the other, and reset is low. -/
def Machine.Signals.answersAll (i : Signals) : Bool :=
  !i.rst && i.dlyDone

/-! ### What a trace shows -/

/-- The trace of a list of operations every one of which is answered `ok`. -/
def okTrace (ops : List Op) : List Event :=
  ops.map (fun o => ⟨o, .ok⟩)

/-- An operation is a write of the clock line. -/
def Machine.Op.isSetClk : Op → Bool
  | .setClk _ => true
  | _ => false

/-- An operation is a write of the data line. -/
def Machine.Op.isSetData : Op → Bool
  | .setData _ => true
  | _ => false

/-- An operation is a delay. -/
def Machine.Op.isDelay : Op → Bool
  | .delay _ => true
  | _ => false

/-- The bit stream of a trace: at each `SetClk(H)` the level `DATA` has, from a first level on (R79). -/
def bitStream (data : LineState) (es : List Event) : List LineState :=
  match es with
  | [] => []
  | ⟨.setData v, r⟩ :: rest => bitStream (lineAfter v r) rest
  | ⟨.setClk .H, _⟩ :: rest => data :: bitStream data rest
  | ⟨.setClk .L, _⟩ :: rest => bitStream data rest
  | ⟨.delay _, _⟩ :: rest => bitStream data rest

/-- The rising edges of the clock: `SetClk(H)` made while `CLK` is `L` (R78). -/
def risingEdges (clk : LineState) (es : List Event) : Nat :=
  match es with
  | [] => 0
  | ⟨.setClk v, r⟩ :: rest =>
    (if v = .H ∧ clk = .L then 1 else 0) + risingEdges (lineAfter v r) rest
  | ⟨.setData _, _⟩ :: rest => risingEdges clk rest
  | ⟨.delay _, _⟩ :: rest => risingEdges clk rest

/-- The transitions of the data line to the level `v`, from a first level on (R80). -/
def dataTransitionsTo (v : Level) (data : Level) (ops : List Op) : Nat :=
  match ops with
  | [] => 0
  | .setData u :: rest => (if u = v ∧ data ≠ v then 1 else 0) + dataTransitionsTo v u rest
  | .setClk _ :: rest => dataTransitionsTo v data rest
  | .delay _ :: rest => dataTransitionsTo v data rest

/-- The least time a trace takes, in microseconds: each delay answered `ok` lasts at least its duration; one answered `fault`
promises none (R110). -/
def minMicros (es : List Event) : Nat :=
  match es with
  | [] => 0
  | ⟨.delay d, .ok⟩ :: rest => d + minMicros rest
  | _ :: rest => minMicros rest

/-- The bits of a word in the order sent, bit `n-1` first (R49). -/
def bitsFrom (w : TxWord) (n : Nat) : List Bool :=
  match n with
  | 0 => []
  | k + 1 => w.getLsbD k :: bitsFrom w k

/-- The levels of the bits of a scan sequence's words, in the order sent (R49, R79). -/
def wordLevels (p : Params) (pixels : List Pixel) : List LineState :=
  pixels.flatMap (fun v => (bitsFrom (txWord p v) 16).map (fun b => .ofLevel (levelOfBit b)))

/-- The place in `ShowOps` of the operation a sequencer position selects, on a grid of `n` cells (R77's table). -/
def operationIndex (n : Nat) (s : State) : Nat :=
  match s.phase with
  | .idle => 0
  | .start => s.sub.toNat
  | .word => 2 + 80 * s.widx.toNat + 5 * (15 - s.bidx.toNat) + s.sub.toNat
  | .latch => if s.sub.toNat < 2 then 2 + 80 * n + s.sub.toNat else 2 + 80 * n + 2 + 4 * s.pcnt.toNat + (s.sub.toNat - 2)

/-! ### Complaints about a command, in the order of R92 -/

/-- The configuration check fails: AlreadyConfigured for INIT, NotConfigured for all others (R92.2). -/
def configurationWrong (s : State) (i : Instr) : Prop :=
  match i with
  | .init _ _ _ => s.cfg = true
  | _ => s.cfg = false

/-- The dimension or address check fails (R92.3; R85, R86). -/
def addressWrong (p : Params) (s : State) (i : Instr) : Prop :=
  match i with
  | .init rows cols _ => rows.toNat = 0 ∨ p.maxRows < rows.toNat ∨ cols.toNat = 0 ∨ p.maxCols < cols.toNat
  | .set row col _ => s.rows.toNat ≤ row.toNat ∨ s.cols.toNat ≤ col.toNat
  | .get row col => s.rows.toNat ≤ row.toNat ∨ s.cols.toNat ≤ col.toNat
  | .scanrd k => s.rows.toNat * s.cols.toNat ≤ k.toNat
  | .showFb => False

/-- The value check fails (R92.4; R87). -/
def valueWrong (p : Params) (i : Instr) : Prop :=
  match i with
  | .init _ _ fill => p.maxIntensity < fill.toNat
  | .set _ _ value => p.maxIntensity < value.toNat
  | _ => False

/-- The status of a failed configuration check (R89, R90). -/
def configurationStatus (i : Instr) : Status :=
  match i with
  | .init _ _ _ => .alreadyConfigured
  | _ => .notConfigured

/-- The status of a failed dimension or address check (R85, R86). -/
def addressStatus (i : Instr) : Status :=
  match i with
  | .init _ _ _ => .invalidDimensions
  | _ => .outOfBounds

/-! ### What a transmission may depend on (R82) -/

/-- Two states agree on everything but the line registers, the pins and the outputs of the last step. -/
structure AgreeButLines (s t : State) : Prop where
  cfg : s.cfg = t.cfg
  rows : s.rows = t.rows
  cols : s.cols = t.cols
  fb : s.fb = t.fb
  phase : s.phase = t.phase
  widx : s.widx = t.widx
  bidx : s.bidx = t.bidx
  sub : s.sub = t.sub
  pcnt : s.pcnt = t.pcnt
  word : s.word = t.word
  trace : s.trace = t.trace
  inputs : s.inputs = t.inputs

end Sys2Proof
end

