-- ==== Sys2Proof/Certificates/Slice0/Obligations.lean ====
section
/-! DEFINITION. The statements for the provers, from the numbered rules of spec/. Each docstring names the rule it formalises;
OBLIGATIONS.json holds the list. -/

open Sys2Proof
open Sys2Proof.Machine
open Sys2Proof.Config (Params)

/-! ### Encoding (R40 to R45, R48) -/

/-- R40 to R43: the decoder reads back every command from its word, every operand at every value its field holds. -/
def Obligations.DecodeReadsBackEveryCommand : Prop :=
  ∀ i : Instr, i.wellFormed = true → decode (encode i) = .ok i

/-- R42, R44: a legal word is the word of the command it stands for, so a command has one word. -/
def Obligations.EveryLegalWordIsItsCommandsWord : Prop :=
  ∀ (c : CmdWord) (i : Instr), decode c = .ok i → encode i = c

/-- R44, R91: a word is illegal exactly when (a) `OP` is 0 or 6 to 15, (b) `OP` is 3 or 4 and `VALUE` is not 0, or (c) `OP` is 5
and bits 27:0 are not all 0; the all-zero and the all-ones word are illegal; an illegal word that is accepted changes no
register, issues no operation and is answered IllegalCommand, whatever `CFG` is. -/
def Obligations.IllegalWordsAreRefusedAndChangeNothing : Prop :=
  (∀ c : CmdWord, (∃ e, decode c = .error e) ↔
    ((c.toNat / 2 ^ 28 = 0 ∨ 6 ≤ c.toNat / 2 ^ 28) ∨
     ((c.toNat / 2 ^ 28 = 3 ∨ c.toNat / 2 ^ 28 = 4) ∧ c.toNat % 2 ^ 16 ≠ 0) ∨
     (c.toNat / 2 ^ 28 = 5 ∧ c.toNat % 2 ^ 28 ≠ 0))) ∧
  (∃ e, decode 0x00000000#32 = .error e) ∧ (∃ e, decode 0xFFFFFFFF#32 = .error e) ∧
  (∀ (s : State) (i : Signals) (rest : List Signals) (c : CmdWord) (e : IllegalWord),
    s.inputs = i :: rest → i.rst = false → s.phase = .idle → i.cmd = some c → decode c = .error e →
    step s = .next { s with rsp := some ⟨.illegalCommand, 0⟩, op := none, trace := [], inputs := rest })

/-- R41, R42: a word is a command exactly when the match and mask of the command's row select it; all other words are illegal;
every operand is the unsigned value of its field, used as it stands, and `K` is the same bits as `ROW ++ COL`. -/
def Obligations.CommandWordsFollowTheOpcodeMap : Prop :=
  ∀ c : CmdWord,
    ((∃ r k f, decode c = .ok (.init r k f)) ↔ c &&& 0xF0000000#32 = 0x10000000#32) ∧
    ((∃ r k f, decode c = .ok (.set r k f)) ↔ c &&& 0xF0000000#32 = 0x20000000#32) ∧
    ((∃ r k, decode c = .ok (.get r k)) ↔ c &&& 0xF000FFFF#32 = 0x30000000#32) ∧
    ((∃ k, decode c = .ok (.scanrd k)) ↔ c &&& 0xF000FFFF#32 = 0x40000000#32) ∧
    (decode c = .ok .showFb ↔ c &&& 0xFFFFFFFF#32 = 0x50000000#32) ∧
    ((∃ e, decode c = .error e) ↔ ∀ r ∈ opcodeMap, c &&& r.mask ≠ r.pattern) ∧
    (∀ r k f, decode c = .ok (.init r k f) →
      r.toNat = c.toNat / 2 ^ 22 % 64 ∧ k.toNat = c.toNat / 2 ^ 16 % 64 ∧ f.toNat = c.toNat % 2 ^ 16) ∧
    (∀ r k v, decode c = .ok (.set r k v) →
      r.toNat = c.toNat / 2 ^ 22 % 64 ∧ k.toNat = c.toNat / 2 ^ 16 % 64 ∧ v.toNat = c.toNat % 2 ^ 16) ∧
    (∀ r k, decode c = .ok (.get r k) →
      r.toNat = c.toNat / 2 ^ 22 % 64 ∧ k.toNat = c.toNat / 2 ^ 16 % 64) ∧
    (∀ k, decode c = .ok (.scanrd k) →
      k.toNat = (c.toNat / 2 ^ 22 % 64) * 64 + c.toNat / 2 ^ 16 % 64)

/-- R42, V-E1: words written out from the spec's encodings decode to the commands they stand for. -/
def Obligations.WordsFromTheSpecDecode : Prop :=
  decode 0b00010010000010000000000000000000#32 = .ok (.init 8 8 0) ∧
  decode 0b00100000010000100000000010100101#32 = .ok (.set 1 2 0xA5) ∧
  decode 0b00110001110001110000000000000000#32 = .ok (.get 7 7) ∧
  decode 0b01000000000010100000000000000000#32 = .ok (.scanrd 10) ∧
  decode 0b01010000000000000000000000000000#32 = .ok .showFb

/-- R45, R84: the response word holds `STATUS` in bits 19:16 and `DATA` in bits 15:0, bits 31:20 are 0; the codes are those of
R84's table. -/
def Obligations.ResponseWordHoldsStatusAndData : Prop :=
  (∀ r : Response, r.toWord.toNat / 2 ^ 20 = 0 ∧ r.toWord.toNat / 2 ^ 16 % 16 = r.status.code.toNat ∧
    r.toWord.toNat % 2 ^ 16 = r.data.toNat ∧ r.status.code.toNat ≤ 7) ∧
  (Status.ok.code = 0 ∧ Status.invalidDimensions.code = 1 ∧ Status.outOfBounds.code = 2 ∧ Status.outOfRange.code = 3 ∧
    Status.hardwareFault.code = 4 ∧ Status.notConfigured.code = 5 ∧ Status.alreadyConfigured.code = 6 ∧
    Status.illegalCommand.code = 7)

/-- R48: the transmission word is `HDR * 2^W + v`; `Word` is injective on the values below `2^W`. -/
def Obligations.TransmissionWordHoldsHeaderAndIntensity : Prop :=
  ∀ p : Params, p.Admissible →
    (∀ v : Pixel, v.toNat ≤ p.maxIntensity → (txWord p v).toNat = p.hdr * 2 ^ p.w + v.toNat) ∧
    (∀ v u : Pixel, v.toNat < 2 ^ p.w → u.toNat < 2 ^ p.w → txWord p v = txWord p u → v = u)

/-! ### The step and the command port (R20, R47, R99, R100) -/

/-- R47, R91: when the word offered in Idle is that of a command, the step is the command's meaning at the state with the
command accepted: the outputs of the step before gone low, the trace empty, the step's signals used up. -/
def Obligations.StepRunsTheDecodedCommand : Prop :=
  ∀ (s : State) (i : Signals) (rest : List Signals) (c : CmdWord) (instr : Instr),
    s.inputs = i :: rest → i.rst = false → s.phase = .idle → i.cmd = some c → decode c = .ok instr →
    step s = exec instr { s with rsp := none, op := none, trace := [], inputs := rest }

/-- Log 9, log 10 (the model's convention): `withFetchWord` makes the very next step run the command of the word. -/
def Obligations.FetchedWordIsTheNextCommand : Prop :=
  ∀ (s : State) (w : Nat) (instr : Instr), decodeTableWord 32 w = some instr →
    step (s.withFetchWord 32 w) =
      exec instr { s.toIdle with rsp := none, op := none, trace := [], inputs := s.inputs.tail }

/-- R99: in Idle with no command offered the encoder waits: no register changes and no operation is issued. With no signals
left nothing has happened outside and nothing changes (log 2, the model's convention). -/
def Obligations.IdleWaitsForACommand : Prop :=
  (∀ (s : State) (i : Signals) (rest : List Signals), s.inputs = i :: rest → i.rst = false → s.phase = .idle →
    i.cmd = none → step s = .next { s with rsp := none, op := none, inputs := rest }) ∧
  (∀ s : State, s.inputs = [] → step s = .next s)

/-- R20, R47: `cmd_ready` is low while `PHASE` is not Idle, and a command offered then is not seen: the step is the same
whatever the command port carries. -/
def Obligations.BusyEncoderDoesNotSeeCommands : Prop :=
  ∀ (s : State) (i : Signals) (rest : List Signals) (offer : Option CmdWord), s.phase ≠ .idle →
    s.cmdReady i = false ∧
    step { s with inputs := { i with cmd := offer } :: rest } = step { s with inputs := i :: rest }

/-- R24, R99, R100: a step in which `rst` is high leaves the reset state, from any state and whatever else the signals say;
`cmd_ready` is low during reset and high from release; the state before the first step is the reset state too. Two
clauses are the model's own: the trace is empty in the reset state (log 16, DESIGN CHOICE: R24 and R99 give it no value), and
the reset step uses up one entry of the signals (log 1, log 13). -/
def Obligations.ResetOverridesEverything : Prop :=
  (∀ (s : State) (i : Signals) (rest : List Signals), s.inputs = i :: rest → i.rst = true →
    s.cmdReady i = false ∧
    ∃ t, step s = .next t ∧ IsResetState t ∧ t.inputs = rest ∧ ∀ j : Signals, j.rst = false → t.cmdReady j = true) ∧
  IsResetState State.reset

/-- R20, R47: exactly one response follows an accepted command. A step with no command accepted in Idle gives none; a step
that accepts a word gives one unless a SHOW begins; a step of a SHOW gives one exactly when it ends. -/
def Obligations.OneResponsePerCommand : Prop :=
  ∀ (s t : State) (i : Signals) (rest : List Signals), s.inputs = i :: rest → i.rst = false → step s = .next t →
    (s.phase = .idle → i.cmd = none → t.rspValid = false) ∧
    (s.phase = .idle → i.cmd ≠ none → (t.rspValid = true ↔ t.phase = .idle)) ∧
    (s.phase ≠ .idle → (t.rspValid = true ↔ t.phase = .idle))

/-! ### The frame-buffer commands (R54 to R61) -/

/-- R55, R85, R90: INIT. A configured encoder answers AlreadyConfigured; illegal dimensions InvalidDimensions, whatever the
fill; an out-of-range fill OutOfRange; none of these writes anything. Else `CFG`, `ROWS`, `COLS` and every cell below
`rows * cols` are written, and nothing else. -/
def Obligations.InitBuildsTheFrameBuffer : Prop :=
  ∀ (s : State) (rows cols : BitVec 6) (fill : BitVec 16),
    (s.cfg = true → exec (.init rows cols fill) s = .next { s with rsp := some ⟨.alreadyConfigured, 0⟩ }) ∧
    (s.cfg = false →
      rows.toNat = 0 ∨ Config.params.maxRows < rows.toNat ∨ cols.toNat = 0 ∨ Config.params.maxCols < cols.toNat →
      exec (.init rows cols fill) s = .next { s with rsp := some ⟨.invalidDimensions, 0⟩ }) ∧
    (s.cfg = false → 1 ≤ rows.toNat → rows.toNat ≤ Config.params.maxRows → 1 ≤ cols.toNat →
      cols.toNat ≤ Config.params.maxCols → Config.params.maxIntensity < fill.toNat →
      exec (.init rows cols fill) s = .next { s with rsp := some ⟨.outOfRange, 0⟩ }) ∧
    (s.cfg = false → 1 ≤ rows.toNat → rows.toNat ≤ Config.params.maxRows → 1 ≤ cols.toNat →
      cols.toNat ≤ Config.params.maxCols → fill.toNat ≤ Config.params.maxIntensity →
      ∃ m : Memory,
        exec (.init rows cols fill) s =
          .next { s with cfg := true, rows := rows, cols := cols, fb := m, rsp := some ⟨.ok, 0⟩ } ∧
        (∀ j, j < rows.toNat * cols.toNat → m.read j = some fill) ∧
        (∀ j, rows.toNat * cols.toNat ≤ j → m.read j = s.fb.read j))

/-- R56, R86, R87: SET. NotConfigured, then OutOfBounds (each coordinate on its own), then OutOfRange, none of which writes
anything. Else the one cell `row * COLS + col` holds the value as it stands, and nothing else is written; writing the value
already held changes no cell. -/
def Obligations.SetWritesOneCell : Prop :=
  ∀ (s : State) (row col : BitVec 6) (value : BitVec 16),
    (s.cfg = false → exec (.set row col value) s = .next { s with rsp := some ⟨.notConfigured, 0⟩ }) ∧
    (s.cfg = true → s.rows.toNat ≤ row.toNat ∨ s.cols.toNat ≤ col.toNat →
      exec (.set row col value) s = .next { s with rsp := some ⟨.outOfBounds, 0⟩ }) ∧
    (s.cfg = true → row.toNat < s.rows.toNat → col.toNat < s.cols.toNat → Config.params.maxIntensity < value.toNat →
      exec (.set row col value) s = .next { s with rsp := some ⟨.outOfRange, 0⟩ }) ∧
    (s.cfg = true → row.toNat < s.rows.toNat → col.toNat < s.cols.toNat → value.toNat ≤ Config.params.maxIntensity →
      ∃ m : Memory,
        exec (.set row col value) s = .next { s with fb := m, rsp := some ⟨.ok, 0⟩ } ∧
        m.read (row.toNat * s.cols.toNat + col.toNat) = some value ∧
        (∀ j, j ≠ row.toNat * s.cols.toNat + col.toNat → m.read j = s.fb.read j) ∧
        (s.fb.wf → s.fb.read (row.toNat * s.cols.toNat + col.toNat) = some value → m = s.fb))

/-- R57, R86: GET. NotConfigured, then OutOfBounds; else the value of the cell `row * COLS + col`, extended with zeros. It
writes nothing but the response; the value is in the domain in every state that meets the invariants; a word of `OP` 3 with
`VALUE` not 0 is no GET. -/
def Obligations.GetReadsOneCell : Prop :=
  ∀ (s : State) (row col : BitVec 6),
    (s.cfg = false → exec (.get row col) s = .next { s with rsp := some ⟨.notConfigured, 0⟩ }) ∧
    (s.cfg = true → s.rows.toNat ≤ row.toNat ∨ s.cols.toNat ≤ col.toNat →
      exec (.get row col) s = .next { s with rsp := some ⟨.outOfBounds, 0⟩ }) ∧
    (∀ v : Pixel, s.cfg = true → row.toNat < s.rows.toNat → col.toNat < s.cols.toNat →
      s.fb.read (row.toNat * s.cols.toNat + col.toNat) = some v →
      exec (.get row col) s = .next { s with rsp := some ⟨.ok, v⟩ }) ∧
    (EncoderInv Config.params s → s.cfg = true → row.toNat < s.rows.toNat → col.toNat < s.cols.toNat →
      ∃ v : Pixel, s.fb.read (row.toNat * s.cols.toNat + col.toNat) = some v ∧ v.toNat ≤ Config.params.maxIntensity) ∧
    (∀ c : CmdWord, c.toNat / 2 ^ 28 = 3 → c.toNat % 2 ^ 16 ≠ 0 → ∃ e, decode c = .error e)

/-- R58, R86: SCANRD. NotConfigured, then OutOfBounds for `k >= N`; else the value of the cell `SCAN(k)`. It writes nothing
but the response. With the default `SCAN`, `SCANRD k` is `GET (k div COLS), (k mod COLS)`. A word of `OP` 4 with `VALUE` not
0 is no SCANRD. -/
def Obligations.ScanrdReadsTheScanSequence : Prop :=
  ∀ (s : State) (k : BitVec 12),
    (s.cfg = false → exec (.scanrd k) s = .next { s with rsp := some ⟨.notConfigured, 0⟩ }) ∧
    (s.cfg = true → s.rows.toNat * s.cols.toNat ≤ k.toNat →
      exec (.scanrd k) s = .next { s with rsp := some ⟨.outOfBounds, 0⟩ }) ∧
    (∀ v : Pixel, s.cfg = true → k.toNat < s.rows.toNat * s.cols.toNat →
      s.fb.read (Config.params.scan s.rows.toNat s.cols.toNat k.toNat) = some v →
      exec (.scanrd k) s = .next { s with rsp := some ⟨.ok, v⟩ }) ∧
    (s.cfg = true → k.toNat < s.rows.toNat * s.cols.toNat →
      exec (.scanrd k) s =
        exec (.get (BitVec.ofNat 6 (k.toNat / s.cols.toNat)) (BitVec.ofNat 6 (k.toNat % s.cols.toNat))) s) ∧
    (∀ c : CmdWord, c.toNat / 2 ^ 28 = 4 → c.toNat % 2 ^ 16 ≠ 0 → ∃ e, decode c = .error e)

/-- R16, U3, log 7 (the model's stop): in a state no run reaches, where a configured encoder has a cell that holds no value,
GET and SCANRD of it stop by name. -/
def Obligations.CellWithoutValueIsNotRead : Prop :=
  ∀ s : State, s.cfg = true →
    (∀ row col : BitVec 6, row.toNat < s.rows.toNat → col.toNat < s.cols.toNat →
      s.fb.read (row.toNat * s.cols.toNat + col.toNat) = none →
      exec (.get row col) s = .fault (.cellHoldsNoValue (row.toNat * s.cols.toNat + col.toNat))) ∧
    (∀ k : BitVec 12, k.toNat < s.rows.toNat * s.cols.toNat →
      s.fb.read (Config.params.scan s.rows.toNat s.cols.toNat k.toNat) = none →
      exec (.scanrd k) s = .fault (.cellHoldsNoValue (Config.params.scan s.rows.toNat s.cols.toNat k.toNat)))

/-- R54, R93 for the statuses 1, 2, 3, 5 and 6: a command that its checks answer with an error writes no state at all: only the
response differs. The two other errors are not answered by `exec`: IllegalCommand (7) is IllegalWordsAreRefusedAndChangeNothing,
HardwareFault (4), which leaves `CLK` and `DATA` as issued, is FaultAbortsTheShow. -/
def Obligations.ErrorsWriteNoState : Prop :=
  ∀ (i : Instr) (s t : State) (r : Response), s.rsp = none → exec i s = .next t → t.rsp = some r → r.status ≠ .ok →
    t = { s with rsp := some r } ∧ r.data = 0

/-- R54 and the head of 40_framebuffer_commands.md: INIT, SET, GET and SCANRD issue no operation, never touch `CLK`, `DATA`,
`SEQ`, `WORD` or the pins, and never raise HardwareFault. -/
def Obligations.FrameBufferCommandsTouchNoLine : Prop :=
  ∀ (i : Instr) (s t : State), i ≠ .showFb → exec i s = .next t →
    (t.clk = s.clk ∧ t.data = s.data ∧ t.clkO = s.clkO ∧ t.dataO = s.dataO) ∧
    (t.phase = s.phase ∧ t.widx = s.widx ∧ t.bidx = s.bidx ∧ t.sub = s.sub ∧ t.pcnt = s.pcnt ∧ t.word = s.word) ∧
    (t.op = s.op ∧ t.trace = s.trace ∧ t.inputs = s.inputs) ∧
    (∃ r, t.rsp = some r ∧ r.status ≠ .hardwareFault)

/-- R92, items 2 to 4: of the complaints a command's checks can have, the first in this order decides its status: the
configuration check (R89; for INIT R90), then the dimension or address check (R85, R86), then the value check (R87); nothing but
the response is written. Item 1 of R92, IllegalCommand, is IllegalWordsAreRefusedAndChangeNothing, item 5, HardwareFault, is
FaultAbortsTheShow. -/
def Obligations.FirstComplaintDecidesTheStatus : Prop :=
  ∀ (i : Instr) (s : State),
    (configurationWrong s i → exec i s = .next { s with rsp := some ⟨configurationStatus i, 0⟩ }) ∧
    (¬ configurationWrong s i → addressWrong Config.params s i →
      exec i s = .next { s with rsp := some ⟨addressStatus i, 0⟩ }) ∧
    (¬ configurationWrong s i → ¬ addressWrong Config.params s i → valueWrong Config.params i →
      exec i s = .next { s with rsp := some ⟨.outOfRange, 0⟩ })

/-- R29: `Idx` is `row * COLS + col`, at most 3968, and a bijection from the in-bounds pairs to `{0..N-1}` whose inverse is
`row = i div COLS`, `col = i mod COLS`. -/
def Obligations.CellIndexIsABijection : Prop :=
  ∀ s : State,
    (∀ row col : BitVec 6, s.inBounds row col = true →
      s.cellIndex row col = row.toNat * s.cols.toNat + col.toNat ∧
      s.cellIndex row col < s.rows.toNat * s.cols.toNat ∧ s.cellIndex row col ≤ 3968 ∧
      row.toNat = s.cellIndex row col / s.cols.toNat ∧ col.toNat = s.cellIndex row col % s.cols.toNat) ∧
    (∀ row col row' col' : BitVec 6, s.inBounds row col = true → s.inBounds row' col' = true →
      s.cellIndex row col = s.cellIndex row' col' → row = row' ∧ col = col') ∧
    (∀ i < s.rows.toNat * s.cols.toNat, ∃ row col : BitVec 6, s.inBounds row col = true ∧ s.cellIndex row col = i)

/-- R59: after a SET answered OK, GET of the same pair returns the value, and GET of every other in-bounds pair returns what it
returned before; after an INIT answered OK every in-bounds GET returns the fill. -/
def Obligations.GetReturnsWhatWasSet : Prop :=
  (∀ (s t : State) (row col : BitVec 6) (v : BitVec 16), exec (.set row col v) s = .next t →
    t.rsp = some ⟨.ok, 0⟩ →
    exec (.get row col) t = .next { t with rsp := some ⟨.ok, v⟩ } ∧
    ∀ (row' col' : BitVec 6) (u : Pixel), (row', col') ≠ (row, col) →
      exec (.get row' col') s = .next { s with rsp := some ⟨.ok, u⟩ } →
      exec (.get row' col') t = .next { t with rsp := some ⟨.ok, u⟩ }) ∧
  (∀ (s t : State) (rows cols : BitVec 6) (fill : BitVec 16), exec (.init rows cols fill) s = .next t →
    t.rsp = some ⟨.ok, 0⟩ → ∀ row col : BitVec 6, row.toNat < rows.toNat → col.toNat < cols.toNat →
    exec (.get row col) t = .next { t with rsp := some ⟨.ok, fill⟩ })

/-- R32, R60: the scan sequence has exactly `N` elements, the `k`-th is what SCANRD `k` returns, SCANRD `N` is OutOfBounds. -/
def Obligations.ScanrdReturnsTheScanSequence : Prop :=
  ∀ (s : State) (pixels : List Pixel), s.cfg = true → s.scanSeq Config.params = some pixels →
    pixels.length = s.rows.toNat * s.cols.toNat ∧
    (∀ (k : BitVec 12) (v : Pixel), pixels[k.toNat]? = some v →
      exec (.scanrd k) s = .next { s with rsp := some ⟨.ok, v⟩ }) ∧
    exec (.scanrd (BitVec.ofNat 12 (s.rows.toNat * s.cols.toNat))) s = .next { s with rsp := some ⟨.outOfBounds, 0⟩ }

/-- R32, R60: for every admissible configuration the scan sequence is a rearrangement of the cells: each cell is sent exactly
once. -/
def Obligations.ScanSequenceIsARearrangementOfTheCells : Prop :=
  ∀ (p : Params) (s : State), p.Admissible → EncoderInv p s → s.cfg = true →
    ∃ pixels cells : List Pixel, s.scanSeq p = some pixels ∧ (List.range s.cells).mapM s.fb.read = some cells ∧
      pixels.Perm cells

/-! ### SHOW as an operation list (R63 to R69, R78 to R80, R83, R111) -/

/-- R63 to R67: the operation lists, each as its rule writes it, and the length of the whole. -/
def Obligations.OperationListsAreTheRules : Prop :=
  ∀ p : Params,
    startOps = [.setClk .L, .setData .L] ∧
    (∀ b : Bool, bitOps p b =
      [.setData (if b then .H else .L), .delay p.tSetup, .setClk .H, .delay p.tHold, .setClk .L]) ∧
    (∀ w : TxWord, wordOps p w = (List.range 16).flatMap (fun j => bitOps p (w.getLsbD (15 - j)))) ∧
    latchOps p = [.setData .L, .delay p.tLatchWait] ++
      (List.replicate p.latchPulses
        [Op.setData .H, Op.delay p.tLatchHi, Op.setData .L, Op.delay p.tLatchLo]).flatten ∧
    (∀ pixels : List Pixel,
      showOps p pixels = startOps ++ (pixels.map (fun v => wordOps p (txWord p v))).flatten ++ latchOps p ∧
      (showOps p pixels).length = 2 + 80 * pixels.length + 2 + 4 * p.latchPulses)

/-- R67, R78: the length of `ShowOps`, the counts of its operations, and its rising clock edges. -/
def Obligations.ShowOperationCounts : Prop :=
  ∀ (p : Params) (pixels : List Pixel),
    (showOps p pixels).length = 4 + 80 * pixels.length + 4 * p.latchPulses ∧
    (showOps p pixels).countP Op.isSetClk = 1 + 32 * pixels.length ∧
    (showOps p pixels).countP Op.isSetData = 2 + 16 * pixels.length + 2 * p.latchPulses ∧
    (showOps p pixels).countP Op.isDelay = 32 * pixels.length + 1 + 2 * p.latchPulses ∧
    (showOps p pixels).count (.setClk .H) = 16 * pixels.length ∧
    ∀ clk : LineState, risingEdges clk (okTrace (showOps p pixels)) = 16 * pixels.length

/-- R79: the bit stream of a successful SHOW is the words of the scan sequence one after the other, each most significant bit
first, whatever the level of `DATA` before. -/
def Obligations.BitStreamIsTheWordsMsbFirst : Prop :=
  ∀ (p : Params) (pixels : List Pixel) (data : LineState),
    bitStream data (okTrace (showOps p pixels)) = wordLevels p pixels

/-- R64, R79 (a), (c): around every rising edge of `ShowOps` stand the data write, the set-up delay, the hold delay and the
falling edge, in this order. -/
def Obligations.EveryRisingEdgeHasSetupAndHold : Prop :=
  ∀ (p : Params) (pixels : List Pixel) (j : Nat), (showOps p pixels)[j]? = some (.setClk .H) →
    2 ≤ j ∧ (∃ v, (showOps p pixels)[j - 2]? = some (.setData v)) ∧
    (showOps p pixels)[j - 1]? = some (.delay p.tSetup) ∧
    (showOps p pixels)[j + 1]? = some (.delay p.tHold) ∧
    (showOps p pixels)[j + 2]? = some (.setClk .L)

/-- R79 (b): between two consecutive rising edges there is exactly one write of the data line. -/
def Obligations.OneDataWriteBetweenRisingEdges : Prop :=
  ∀ (p : Params) (pixels : List Pixel) (j k : Nat), j < k →
    (showOps p pixels)[j]? = some (.setClk .H) → (showOps p pixels)[k]? = some (.setClk .H) →
    (∀ m, j < m → m < k → (showOps p pixels)[m]? ≠ some (.setClk .H)) →
    (((showOps p pixels).take k).drop (j + 1)).countP Op.isSetData = 1

/-- R66, R80: the latch writes no clock; the data line makes exactly `LATCH_PULSES` low-to-high and `LATCH_PULSES` high-to-low
transitions in it, and one more high-to-low when the last bit sent was 1. -/
def Obligations.LatchPulsesTheDataLineOnly : Prop :=
  ∀ p : Params,
    (∀ v : Level, Op.setClk v ∉ latchOps p) ∧ (latchOps p).length = 2 + 4 * p.latchPulses ∧
    dataTransitionsTo .H .L (latchOps p) = p.latchPulses ∧ dataTransitionsTo .L .L (latchOps p) = p.latchPulses ∧
    dataTransitionsTo .H .H (latchOps p) = p.latchPulses ∧ dataTransitionsTo .L .H (latchOps p) = p.latchPulses + 1

/-- R110, R111: the least time of a successful SHOW. -/
def Obligations.ShowLastsAtLeast : Prop :=
  ∀ (p : Params) (pixels : List Pixel),
    minMicros (okTrace (showOps p pixels)) =
      16 * pixels.length * (p.tSetup + p.tHold) + p.tLatchWait + p.latchPulses * (p.tLatchHi + p.tLatchLo)

/-- R83: an all-zero and an all-maximum frame of `n` cells give lists of one length that differ exactly at the data writes of
the bits below `W` where `MAX_INTENSITY` has a 1; with `HDR = 0` the all-zero frame's bit stream is `16 * n` zeros. -/
def Obligations.OnlyTheIntensityFieldVaries : Prop :=
  ∀ (p : Params) (n : Nat), p.Admissible →
    (showOps p (List.replicate n 0)).length = (showOps p (List.replicate n (BitVec.ofNat 16 p.maxIntensity))).length ∧
    (∀ j, (showOps p (List.replicate n 0))[j]? ≠ (showOps p (List.replicate n (BitVec.ofNat 16 p.maxIntensity)))[j]? ↔
      ∃ k i, k < n ∧ i < p.w ∧ p.maxIntensity.testBit i = true ∧ j = 2 + 80 * k + 5 * (15 - i)) ∧
    (∀ k i, k < n → i < p.w → p.maxIntensity.testBit i = true →
      (showOps p (List.replicate n 0))[2 + 80 * k + 5 * (15 - i)]? = some (.setData .L) ∧
      (showOps p (List.replicate n (BitVec.ofNat 16 p.maxIntensity)))[2 + 80 * k + 5 * (15 - i)]? =
        some (.setData .H)) ∧
    (p.hdr = 0 → wordLevels p (List.replicate n 0) = List.replicate (16 * n) .L)

/-! ### SHOW as a sequencer (R70 to R76) -/

/-- R69, R70: SHOW accepted with `CFG = 1` writes `SEQ <- (Start, 0, 0, 0, 0)` and nothing else; with `CFG = 0` it is answered
NotConfigured and nothing is written. -/
def Obligations.ShowLeavesIdle : Prop :=
  ∀ s : State,
    (s.cfg = true →
      exec .showFb s = .next { s with phase := .start, widx := 0, bidx := 0, sub := 0, pcnt := 0 }) ∧
    (s.cfg = false → exec .showFb s = .next { s with rsp := some ⟨.notConfigured, 0⟩ })

/-- R17, R50, R68: what one answered operation writes: the line register of a line write, `v` on `ok` and `X` on `fault`; the
pin, the requested level either way (R50 as log 4 reads it, DEDUCED); the event at the end of the trace; nothing else but the
port. -/
def Obligations.AnsweredOperationWritesItsLineOnly : Prop :=
  ∀ (s : State) (r : Answer),
    (∀ v : Level, s.perform (.setClk v) r =
      { s with
        clk := if r = .ok then .ofLevel v else .X
        clkO := v
        op := some (.setClk v)
        trace := s.trace ++ [⟨.setClk v, r⟩] }) ∧
    (∀ v : Level, s.perform (.setData v) r =
      { s with
        data := if r = .ok then .ofLevel v else .X
        dataO := v
        op := some (.setData v)
        trace := s.trace ++ [⟨.setData v, r⟩] }) ∧
    (∀ d : Nat, s.perform (.delay d) r = { s with op := some (.delay d), trace := s.trace ++ [⟨.delay d, r⟩] })

/-- R71: the Start phase, each operation answered `ok`. -/
def Obligations.StartPhaseForcesBothLinesLow : Prop :=
  ∀ (s : State) (i : Signals) (rest : List Signals), s.inputs = i :: rest → i.rst = false → i.lineFault = false →
    s.phase = .start →
    (s.sub = 0 → step s = .next { (s.beginStep rest).perform (.setClk .L) .ok with sub := 1 }) ∧
    (∀ v : Pixel, s.sub = 1 → s.fb.read (Config.params.scan s.rows.toNat s.cols.toNat 0) = some v →
      step s = .next { (s.beginStep rest).perform (.setData .L) .ok with
        phase := .word, widx := 0, bidx := 15, sub := 0, pcnt := 0, word := txWord Config.params v })

/-- R72: the Word phase, sub-steps 0 to 3, each operation answered `ok`. -/
def Obligations.WordPhaseSendsTheBit : Prop :=
  ∀ (s : State) (i : Signals) (rest : List Signals), s.inputs = i :: rest → i.rst = false → s.phase = .word →
    (s.sub = 0 → i.lineFault = false →
      step s = .next { (s.beginStep rest).perform
        (.setData (if s.word.getLsbD s.bidx.toNat then .H else .L)) .ok with sub := 1 }) ∧
    (s.sub = 1 → i.dlyDone = true → i.dlyFault = false →
      step s = .next { (s.beginStep rest).perform (.delay Config.params.tSetup) .ok with sub := 2 }) ∧
    (s.sub = 2 → i.lineFault = false →
      step s = .next { (s.beginStep rest).perform (.setClk .H) .ok with sub := 3 }) ∧
    (s.sub = 3 → i.dlyDone = true → i.dlyFault = false →
      step s = .next { (s.beginStep rest).perform (.delay Config.params.tHold) .ok with sub := 4 })

/-- R73: the end of a bit: the next bit of the same word, the next word with no operation between, or the latch. -/
def Obligations.EndOfABitAdvances : Prop :=
  ∀ (s : State) (i : Signals) (rest : List Signals), s.inputs = i :: rest → i.rst = false → i.lineFault = false →
    s.phase = .word → s.sub = 4 →
    (0 < s.bidx.toNat → step s = .next { (s.beginStep rest).perform (.setClk .L) .ok with
      bidx := s.bidx - 1, sub := 0 }) ∧
    (∀ v : Pixel, s.bidx = 0 → s.widx.toNat + 1 < s.rows.toNat * s.cols.toNat →
      s.fb.read (Config.params.scan s.rows.toNat s.cols.toNat (s.widx.toNat + 1)) = some v →
      step s = .next { (s.beginStep rest).perform (.setClk .L) .ok with
        phase := .word, widx := s.widx + 1, bidx := 15, sub := 0, pcnt := 0, word := txWord Config.params v }) ∧
    (s.bidx = 0 → s.rows.toNat * s.cols.toNat ≤ s.widx.toNat + 1 →
      step s = .next { (s.beginStep rest).perform (.setClk .L) .ok with
        phase := .latch, widx := 0, bidx := 0, sub := 0, pcnt := 0, word := 0 })

/-- R74: the Latch phase, sub-steps 0 to 4, each operation answered `ok`. -/
def Obligations.LatchPhasePulsesData : Prop :=
  ∀ (s : State) (i : Signals) (rest : List Signals), s.inputs = i :: rest → i.rst = false → s.phase = .latch →
    (s.sub = 0 → i.lineFault = false →
      step s = .next { (s.beginStep rest).perform (.setData .L) .ok with sub := 1 }) ∧
    (s.sub = 1 → i.dlyDone = true → i.dlyFault = false →
      step s = .next { (s.beginStep rest).perform (.delay Config.params.tLatchWait) .ok with sub := 2 }) ∧
    (s.sub = 2 → i.lineFault = false →
      step s = .next { (s.beginStep rest).perform (.setData .H) .ok with sub := 3 }) ∧
    (s.sub = 3 → i.dlyDone = true → i.dlyFault = false →
      step s = .next { (s.beginStep rest).perform (.delay Config.params.tLatchHi) .ok with sub := 4 }) ∧
    (s.sub = 4 → i.lineFault = false →
      step s = .next { (s.beginStep rest).perform (.setData .L) .ok with sub := 5 })

/-- R75: the end of a latch pulse: another pulse, or Idle and the response OK. -/
def Obligations.EndOfTheLatchReturnsToIdle : Prop :=
  ∀ (s : State) (i : Signals) (rest : List Signals), s.inputs = i :: rest → i.rst = false → i.dlyDone = true →
    i.dlyFault = false → s.phase = .latch → s.sub = 5 →
    (s.pcnt.toNat + 1 < Config.params.latchPulses →
      step s = .next { (s.beginStep rest).perform (.delay Config.params.tLatchLo) .ok with
        pcnt := s.pcnt + 1, sub := 2 }) ∧
    (Config.params.latchPulses ≤ s.pcnt.toNat + 1 →
      step s = .next { (s.beginStep rest).perform (.delay Config.params.tLatchLo) .ok with
        phase := .idle, widx := 0, bidx := 0, sub := 0, pcnt := 0, word := 0, rsp := some ⟨.ok, 0⟩ })

/-- R76, R88: an operation answered `fault` ends the SHOW at once: the line register of that operation becomes `X`, the other
line keeps its level, `SEQ` and `WORD` return to their Idle zeros, the response is HardwareFault with the fault source, and
`CFG`, `ROWS`, `COLS` and `FB` are as before. The pin of the faulted line carries the requested level: that clause is R50's, not
R76's, as the model reads it (log 4, DEDUCED, unsafe for a claim about a pin after a fault). The event at the end of the trace
is R11's; that the step uses up one entry of the signals is the model's (log 1). -/
def Obligations.FaultAbortsTheShow : Prop :=
  ∀ (s : State) (i : Signals) (rest : List Signals) (o : Op), s.inputs = i :: rest → i.rst = false →
    s.currentOp Config.params = some o → i.answer o = some .fault →
    ∃ t, step s = .next t ∧
      (∀ v, o = .setClk v → t.clk = .X ∧ t.clkO = v ∧ t.data = s.data ∧ t.dataO = s.dataO ∧
        t.rsp = some ⟨.hardwareFault, 1⟩) ∧
      (∀ v, o = .setData v → t.data = .X ∧ t.dataO = v ∧ t.clk = s.clk ∧ t.clkO = s.clkO ∧
        t.rsp = some ⟨.hardwareFault, 2⟩) ∧
      (∀ d, o = .delay d → t.clk = s.clk ∧ t.clkO = s.clkO ∧ t.data = s.data ∧ t.dataO = s.dataO ∧
        t.rsp = some ⟨.hardwareFault, 3⟩) ∧
      (t.phase = .idle ∧ t.widx = 0 ∧ t.bidx = 0 ∧ t.sub = 0 ∧ t.pcnt = 0 ∧ t.word = 0) ∧
      (t.cfg = s.cfg ∧ t.rows = s.rows ∧ t.cols = s.cols ∧ t.fb = s.fb) ∧
      t.trace = s.trace ++ [⟨o, .fault⟩] ∧ t.inputs = rest

/-- R50: in a step of a SHOW the ports carry the operation of the sequencer position: `line_wr`, `line_sel` and the pin of a
line write (on a fault as log 4 reads R50, DEDUCED), `dly_req` and `dly_us` of a delay (`dly_us` the duration's low 16 bits,
log 20, DEDUCED). The second clause is the model's rendering of R50's wait (log 12, DEDUCED: R8 has one step consume its
result): a step with `dly_done` low leaves the delay on the port, with no event and no register written, and uses up one entry
of the signals (log 1). -/
def Obligations.PortsCarryTheOperationUntilAnswered : Prop :=
  ∀ (s : State) (i : Signals) (rest : List Signals) (o : Op), s.inputs = i :: rest → i.rst = false →
    s.currentOp Config.params = some o →
    (∀ t, step s = .next t →
      (∀ v, o = .setClk v → t.lineWr = true ∧ t.lineSel = some 0 ∧ t.clkO = v ∧ t.dlyReq = false) ∧
      (∀ v, o = .setData v → t.lineWr = true ∧ t.lineSel = some 1 ∧ t.dataO = v ∧ t.dlyReq = false) ∧
      (∀ d, o = .delay d → t.lineWr = false ∧ t.dlyReq = true ∧ t.dlyUs = some (BitVec.ofNat 16 d))) ∧
    (∀ d, o = .delay d → i.dlyDone = false →
      step s = .next { s with rsp := none, op := some (.delay d), inputs := rest })

/-! ### The two forms of SHOW agree (R77), and what a SHOW does as a whole (R69, R81, R82, R110) -/

/-- R77: the operation a sequencer position selects is the element of `ShowOps` at the index R77's table gives the position,
for every admissible configuration. -/
def Obligations.PositionSelectsItsShowOperation : Prop :=
  ∀ (p : Params) (s : State) (pixels : List Pixel), p.Admissible → EncoderInv p s → s.phase ≠ .idle →
    s.scanSeq p = some pixels →
    operationIndex s.cells s < (showOps p pixels).length ∧
    (showOps p pixels)[operationIndex s.cells s]? = s.currentOp p

/-- R77: a step whose operation is answered `ok` moves the sequencer to the next index, and the one at the last index ends the
SHOW, for every admissible configuration. -/
def Obligations.AnsweredStepMovesToTheNextOperation : Prop :=
  ∀ (p : Params) (s t : State) (i : Signals) (o : Op), p.Admissible → EncoderInv p s → s.phase ≠ .idle →
    s.currentOp p = some o → i.answer o = some .ok → s.sequence p i = .next t →
    (t.phase ≠ .idle ∧ operationIndex t.cells t = operationIndex s.cells s + 1) ∨
    (t.phase = .idle ∧ operationIndex s.cells s + 1 = 4 + 80 * s.cells + 4 * p.latchPulses)

/-- R69, R77: from the acceptance of SHOW, the steps of the machine end in exactly the state `Run(ShowOps)` ends in under the
same signals: registers, lines, trace and response; and while the signals do not yet answer every operation the SHOW is still
in progress. -/
def Obligations.ShowStepsAgreeWithTheOperationList : Prop :=
  ∀ s : State, EncoderInv Config.params s → s.cfg = true → s.phase = .idle → (∀ i ∈ s.inputs, i.rst = false) →
    (∀ t, transmitWhole Config.params s = some t →
      ∃ u, exec .showFb s = .next u ∧ core.run (s.inputs.length - t.inputs.length) u = .next t) ∧
    (transmitWhole Config.params s = none →
      ∃ u t, exec .showFb s = .next u ∧ core.run s.inputs.length u = .next t ∧ t.phase ≠ .idle ∧ t.inputs = [])

/-- R69, R81, R82: a SHOW in which every operation is answered `ok` takes `4 + 80*N + 4*LATCH_PULSES` steps and ends with both
lines low, Idle, the response OK, the trace `ShowOps` with every result `ok`, and everything else as before. -/
def Obligations.SuccessfulShowSendsTheWholeFrame : Prop :=
  ∀ (s : State) (pixels : List Pixel) (ins rest : List Signals),
    EncoderInv Config.params s → s.cfg = true → s.phase = .idle → s.scanSeq Config.params = some pixels →
    s.inputs = ins ++ rest → (∀ i ∈ ins, i.allOk = true) →
    ins.length = 4 + 80 * (s.rows.toNat * s.cols.toNat) + 4 * Config.params.latchPulses →
    ∃ u, exec .showFb s = .next u ∧ core.run ins.length u = .next
      { s with
        clk := .L
        data := .L
        clkO := .L
        dataO := .L
        rsp := some ⟨.ok, 0⟩
        op := some (.delay Config.params.tLatchLo)
        trace := s.trace ++ okTrace (showOps Config.params pixels)
        inputs := rest }

/-- R68, R76, R93: a SHOW whose operations before index `j` are answered `ok` and whose operation at `j` is answered `fault`
ends there: the trace is the first `j` operations and the faulted one, the response names its source, `CFG`, `ROWS`, `COLS`
and the cells are as before. -/
def Obligations.FaultedShowStopsAtTheFaultedOperation : Prop :=
  ∀ (s : State) (pixels : List Pixel) (ins rest : List Signals) (bad : Signals) (o : Op),
    EncoderInv Config.params s → s.cfg = true → s.phase = .idle → s.scanSeq Config.params = some pixels →
    s.inputs = ins ++ bad :: rest → (∀ i ∈ ins, i.allOk = true) → bad.rst = false →
    (showOps Config.params pixels)[ins.length]? = some o → bad.answer o = some .fault →
    ∃ u t, exec .showFb s = .next u ∧ core.run (ins.length + 1) u = .next t ∧
      t.trace = s.trace ++ okTrace ((showOps Config.params pixels).take ins.length) ++ [⟨o, .fault⟩] ∧
      t.rsp = some ⟨.hardwareFault, o.source⟩ ∧ t.phase = .idle ∧ t.inputs = rest ∧
      t.cfg = s.cfg ∧ t.rows = s.rows ∧ t.cols = s.cols ∧ t.fb = s.fb

/-- R110 (c): if every operation is answered, `ok` or `fault`, a SHOW ends after at most `4 + 80*N + 4*LATCH_PULSES` steps,
with a response. The premise that every operation is answered is R110's liveness assumption. -/
def Obligations.AnsweredShowEnds : Prop :=
  ∀ (s : State) (ins rest : List Signals), EncoderInv Config.params s → s.cfg = true → s.phase = .idle →
    s.inputs = ins ++ rest → (∀ i ∈ ins, i.answersAll = true) →
    ins.length = 4 + 80 * (s.rows.toNat * s.cols.toNat) + 4 * Config.params.latchPulses →
    ∃ (n : Nat) (u t : State), n ≤ ins.length ∧ exec .showFb s = .next u ∧ core.run n u = .next t ∧
      t.phase = .idle ∧ (t.rsp = some ⟨.ok, 0⟩ ∨ ∃ src, t.rsp = some ⟨.hardwareFault, src⟩)

/-- R82: one step depends on nothing of the line registers, the pins or the outputs of the step before: from two states that
agree on the rest it gives states that agree on the rest, with the same response and the same operation on the ports. -/
def Obligations.StepDoesNotDependOnTheLines : Prop :=
  ∀ s s' t : State, AgreeButLines s s' → step s = .next t →
    ∃ t', step s' = .next t' ∧ AgreeButLines t t' ∧ (s.inputs ≠ [] → t.rsp = t'.rsp ∧ t.op = t'.op)

/-- R82: no bleed-over. Two runs from states that differ only in the line registers, the pins and the last outputs keep the
same trace, registers and frame buffer, however long they are. -/
def Obligations.RunsDoNotDependOnTheLines : Prop :=
  ∀ (n : Nat) (s s' t : State), AgreeButLines s s' → core.run n s = .next t →
    ∃ t', core.run n s' = .next t' ∧ AgreeButLines t t'

/-! ### Invariants and whole-machine rules (R14, R16, R25, R108, R109) -/

/-- R25: the invariants hold at reset. -/
def Obligations.InvariantsHoldAtReset : Prop :=
  EncoderInv Config.params State.reset

/-- R23, R25: every step keeps the invariants, from every state that meets them. -/
def Obligations.EveryStepKeepsTheInvariants : Prop :=
  ∀ s t : State, EncoderInv Config.params s → step s = .next t → EncoderInv Config.params t

/-- R86, R94: from every state that meets the invariants the step answers a next state: no command, no signal and no sequencer
position stops the machine. -/
def Obligations.NoStepStopsTheMachine : Prop :=
  ∀ s : State, EncoderInv Config.params s → Continues (step s)

/-- Every step keeps the cell list in its canonical form, from every state that has it. -/
def Obligations.EveryStepKeepsTheCellListCanonical : Prop :=
  ∀ s t : State, s.fb.wf → step s = .next t → t.fb.wf

/-- R25.6, R108: while a SHOW is in progress no step but a reset changes `FB`, `CFG`, `ROWS` or `COLS`. -/
def Obligations.FrameBufferIsBorrowedDuringShow : Prop :=
  ∀ (s t : State) (i : Signals) (rest : List Signals), s.inputs = i :: rest → i.rst = false → s.phase ≠ .idle →
    step s = .next t → t.fb = s.fb ∧ t.cfg = s.cfg ∧ t.rows = s.rows ∧ t.cols = s.cols

/-- R14, R15: only reset clears `CFG`, only an INIT answered OK sets it, and while it stays set `ROWS` and `COLS` do not
change. -/
def Obligations.OnlyResetClearsAndOnlyInitSetsCfg : Prop :=
  ∀ (s t : State) (i : Signals) (rest : List Signals), s.inputs = i :: rest → step s = .next t →
    (s.cfg = true → t.cfg = false → i.rst = true) ∧
    (s.cfg = false → t.cfg = true →
      s.phase = .idle ∧ t.rsp = some ⟨.ok, 0⟩ ∧ ∃ c r k f, i.cmd = some c ∧ decode c = .ok (.init r k f)) ∧
    (s.cfg = true → t.cfg = true → t.rows = s.rows ∧ t.cols = s.cols)

/-- R17, R109: a step other than a reset changes a line register or its pin only by that line's own write, and never both
lines. -/
def Obligations.LinesChangeOnlyByTheirOwnWrite : Prop :=
  ∀ (s t : State) (i : Signals) (rest : List Signals), s.inputs = i :: rest → i.rst = false → step s = .next t →
    ((t.clk ≠ s.clk ∨ t.clkO ≠ s.clkO) → t.op = some (.setClk t.clkO) ∧ t.data = s.data ∧ t.dataO = s.dataO) ∧
    ((t.data ≠ s.data ∨ t.dataO ≠ s.dataO) → t.op = some (.setData t.dataO) ∧ t.clk = s.clk ∧ t.clkO = s.clkO)

/-- R5, R6: a sanity check of one configuration: the default one meets every constraint of R5 and R6, `SCAN` a bijection on
every grid among them. -/
def Obligations.DefaultConfigurationIsAdmissible : Prop :=
  Config.params.Admissible

/-! ### The pseudo-commands (R52) -/

/-- R52: the commands `CLEAR v` expands to, offered one a step, leave every cell at `v` and the dimensions as they were. -/
def Obligations.ClearWritesEveryCell : Prop :=
  ∀ (s : State) (v : BitVec 16) (rest : List Signals), EncoderInv Config.params s → s.cfg = true → s.phase = .idle →
    v.toNat ≤ Config.params.maxIntensity →
    s.inputs = offerAll (clearCommands s.rows.toNat s.cols.toNat v) ++ rest →
    ∃ t, core.run (s.rows.toNat * s.cols.toNat) s = .next t ∧
      (∀ j < s.rows.toNat * s.cols.toNat, t.fb.read j = some v) ∧
      t.cfg = true ∧ t.rows = s.rows ∧ t.cols = s.cols ∧ t.phase = .idle ∧ t.inputs = rest

/-- R52: the commands `SCANALL` expands to, offered one a step, are answered with the scan sequence, one element a step. -/
def Obligations.ScanAllYieldsTheScanSequence : Prop :=
  ∀ (s : State) (pixels : List Pixel) (rest : List Signals) (k : Nat) (v : Pixel), EncoderInv Config.params s →
    s.cfg = true → s.phase = .idle → s.scanSeq Config.params = some pixels →
    s.inputs = offerAll (scanAllCommands (s.rows.toNat * s.cols.toNat)) ++ rest → pixels[k]? = some v →
    ∃ t, core.run (k + 1) s = .next t ∧ t.rsp = some ⟨.ok, v⟩ ∧ t.fb = s.fb
end

