-- ==== Sys2Proof/Laws/Decode.lean ====
section
/-! SUPPORT. The number a command's word stands for, and the numbers a word's fields stand for (R40, R41, R43). -/

namespace Sys2Proof

/-- Appending bit fields adds the upper field, shifted. -/
theorem toNat_append_field {m n : Nat} (x : BitVec m) (y : BitVec n) : (x ++ y).toNat = x.toNat * 2 ^ n + y.toNat := by
  rw [BitVec.toNat_append, ← Nat.shiftLeft_add_eq_or_of_lt y.isLt, Nat.shiftLeft_eq]

theorem encode_init_toNat (rows cols : BitVec 6) (fill : BitVec 16) :
    (encode (.init rows cols fill)).toNat = 1 * 2 ^ 28 + rows.toNat * 2 ^ 22 + cols.toNat * 2 ^ 16 + fill.toNat := by
  show (0x1#4 ++ rows ++ cols ++ fill).toNat = _
  simp only [toNat_append_field, BitVec.toNat_ofNat]
  omega

theorem encode_set_toNat (row col : BitVec 6) (value : BitVec 16) :
    (encode (.set row col value)).toNat = 2 * 2 ^ 28 + row.toNat * 2 ^ 22 + col.toNat * 2 ^ 16 + value.toNat := by
  show (0x2#4 ++ row ++ col ++ value).toNat = _
  simp only [toNat_append_field, BitVec.toNat_ofNat]
  omega

theorem encode_get_toNat (row col : BitVec 6) :
    (encode (.get row col)).toNat = 3 * 2 ^ 28 + row.toNat * 2 ^ 22 + col.toNat * 2 ^ 16 := by
  show (0x3#4 ++ row ++ col ++ 0#16).toNat = _
  simp only [toNat_append_field, BitVec.toNat_ofNat]
  omega

theorem encode_scanrd_toNat (k : BitVec 12) : (encode (.scanrd k)).toNat = 4 * 2 ^ 28 + k.toNat * 2 ^ 16 := by
  show (0x4#4 ++ k ++ 0#16).toNat = _
  simp only [toNat_append_field, BitVec.toNat_ofNat]
  omega

theorem encode_show_toNat : (encode .showFb).toNat = 5 * 2 ^ 28 := by
  decide

theorem fieldOp_toNat (c : CmdWord) : (fieldOp c).toNat = c.toNat / 2 ^ 28 := by
  have := c.isLt
  simp only [fieldOp, BitVec.extractLsb'_toNat, Nat.shiftRight_eq_div_pow]
  omega

theorem fieldRow_toNat (c : CmdWord) : (fieldRow c).toNat = c.toNat / 2 ^ 22 % 2 ^ 6 := by
  simp only [fieldRow, BitVec.extractLsb'_toNat, Nat.shiftRight_eq_div_pow]

theorem fieldCol_toNat (c : CmdWord) : (fieldCol c).toNat = c.toNat / 2 ^ 16 % 2 ^ 6 := by
  simp only [fieldCol, BitVec.extractLsb'_toNat, Nat.shiftRight_eq_div_pow]

theorem fieldK_toNat (c : CmdWord) : (fieldK c).toNat = c.toNat / 2 ^ 16 % 2 ^ 12 := by
  simp only [fieldK, BitVec.extractLsb'_toNat, Nat.shiftRight_eq_div_pow]

theorem fieldValue_toNat (c : CmdWord) : (fieldValue c).toNat = c.toNat % 2 ^ 16 := by
  simp only [fieldValue, BitVec.extractLsb'_toNat, Nat.shiftRight_eq_div_pow, pow_zero, Nat.div_one]

theorem fieldBelowOp_toNat (c : CmdWord) : (fieldBelowOp c).toNat = c.toNat % 2 ^ 28 := by
  simp only [fieldBelowOp, BitVec.extractLsb'_toNat, Nat.shiftRight_eq_div_pow, pow_zero, Nat.div_one]

/-- `K = ROW * 64 + COL` (R43). -/
theorem fieldK_eq (c : CmdWord) : (fieldK c).toNat = (fieldRow c).toNat * 64 + (fieldCol c).toNat := by
  rw [fieldK_toNat, fieldRow_toNat, fieldCol_toNat]
  omega

/-- The mask of INIT and SET keeps bits 31:28 (R42). -/
theorem maskOp_toNat (c : CmdWord) : (c &&& 0xF0000000#32).toNat = c.toNat / 2 ^ 28 * 2 ^ 28 := by
  have h : c &&& 0xF0000000#32 = (c >>> 28) <<< 28 := by
    apply BitVec.eq_of_getLsbD_eq
    intro j hj
    interval_cases j <;> simp
  have := c.isLt
  rw [h, BitVec.toNat_shiftLeft, BitVec.toNat_ushiftRight, Nat.shiftLeft_eq, Nat.shiftRight_eq_div_pow]
  omega

/-- The mask of GET and SCANRD keeps bits 31:28 and 15:0 (R42). -/
theorem maskOpValue_toNat (c : CmdWord) :
    (c &&& 0xF000FFFF#32).toNat = c.toNat / 2 ^ 28 * 2 ^ 28 + c.toNat % 2 ^ 16 := by
  have h : c &&& 0xF000FFFF#32 = (c >>> 28) <<< 28 ||| (c <<< 16) >>> 16 := by
    apply BitVec.eq_of_getLsbD_eq
    intro j hj
    interval_cases j <;> simp
  have h28 : c.toNat % 2 ^ 16 < 2 ^ 28 := by omega
  have := c.isLt
  rw [h, BitVec.toNat_or, BitVec.toNat_shiftLeft, BitVec.toNat_ushiftRight, BitVec.toNat_ushiftRight,
    BitVec.toNat_shiftLeft, Nat.shiftLeft_eq, Nat.shiftLeft_eq, Nat.shiftRight_eq_div_pow, Nat.shiftRight_eq_div_pow]
  have e1 : c.toNat / 2 ^ 28 * 2 ^ 28 % 2 ^ 32 = (c.toNat / 2 ^ 28) <<< 28 := by
    rw [Nat.shiftLeft_eq]; omega
  have e2 : c.toNat * 2 ^ 16 % 2 ^ 32 / 2 ^ 16 = c.toNat % 2 ^ 16 := by omega
  rw [e1, e2, ← Nat.shiftLeft_add_eq_or_of_lt h28, Nat.shiftLeft_eq]

/-- The mask of SHOW keeps every bit (R42). -/
theorem maskAll (c : CmdWord) : c &&& 0xFFFFFFFF#32 = c := by
  apply BitVec.eq_of_getLsbD_eq
  intro j hj
  interval_cases j <;> simp

/-- The cases in which a word is a command (R42, R44). -/
inductive Decoded (c : CmdWord) : Instr → Prop where
  | init (h : (fieldOp c).toNat = 1) : Decoded c (.init (fieldRow c) (fieldCol c) (fieldValue c))
  | set (h : (fieldOp c).toNat = 2) : Decoded c (.set (fieldRow c) (fieldCol c) (fieldValue c))
  | get (h : (fieldOp c).toNat = 3) (hv : fieldValue c = 0) : Decoded c (.get (fieldRow c) (fieldCol c))
  | scanrd (h : (fieldOp c).toNat = 4) (hv : fieldValue c = 0) : Decoded c (.scanrd (fieldK c))
  | showFb (h : (fieldOp c).toNat = 5) (hv : fieldBelowOp c = 0) : Decoded c .showFb

theorem decode_ok (c : CmdWord) (i : Instr) (h : decode c = .ok i) : Decoded c i := by
  unfold decode at h
  split at h
  · next ho => cases h; exact .init ho
  · next ho => cases h; exact .set ho
  · next ho =>
    split at h
    · next hv => cases h; exact .get ho hv
    · cases h
  · next ho =>
    split at h
    · next hv => cases h; exact .scanrd ho hv
    · cases h
  · next ho =>
    split at h
    · next hv => cases h; exact .showFb ho hv
    · cases h
  · cases h

end Sys2Proof
end

