-- ==== Sys2Proof/Laws/Memory.lean ====
section
/-! SUPPORT. The laws of the frame buffer's cells: a read after a write, a read after a fill, and that every operation keeps
the canonical form. -/

namespace Sys2Proof.Machine

@[simp] theorem Memory.read_nil (i : Nat) : Memory.read [] i = none := rfl

theorem Memory.wf_nil : Memory.wf [] := List.Pairwise.nil

theorem Memory.read_write_same (m : Memory) (i : Nat) (v : Pixel) : (m.write i v).read i = some v := by
  induction m with
  | nil => simp [Memory.write, Memory.read]
  | cons c rest ih =>
    obtain ⟨j, u⟩ := c
    simp only [Memory.write]
    split
    · simp [Memory.read]
    · split
      · simp [Memory.read]
      · next h => simp [Memory.read, h, ih]

theorem Memory.read_write_other (m : Memory) (i k : Nat) (v : Pixel) (h : k ≠ i) :
    (m.write i v).read k = m.read k := by
  induction m with
  | nil => simp [Memory.write, Memory.read, h]
  | cons c rest ih =>
    obtain ⟨j, u⟩ := c
    simp only [Memory.write]
    split
    · simp [Memory.read, h]
    · split
      · next hij => subst hij; simp [Memory.read, h]
      · simp [Memory.read, ih]

/-- Everything a read can find after a write. -/
theorem Memory.read_write (m : Memory) (i k : Nat) (v : Pixel) :
    (m.write i v).read k = if k = i then some v else m.read k := by
  split
  · next h => rw [h, Memory.read_write_same]
  · next h => exact Memory.read_write_other m i k v h

/-- Everything a read can find after a fill. -/
theorem Memory.read_fill (m : Memory) (v : Pixel) (n k : Nat) :
    (m.fill v n).read k = if k < n then some v else m.read k := by
  induction n with
  | zero => simp [Memory.fill]
  | succ n ih =>
    simp only [Memory.fill, Memory.read_write, ih]
    by_cases h : k = n
    · simp [h]
    · have : k < n + 1 ↔ k < n := by omega
      simp [h, this]

theorem Memory.mem_write (m : Memory) (i : Nat) (v : Pixel) (c : Nat × Pixel) (h : c ∈ m.write i v) :
    c = (i, v) ∨ c ∈ m := by
  induction m with
  | nil => simpa [Memory.write] using h
  | cons d rest ih =>
    obtain ⟨j, u⟩ := d
    simp only [Memory.write] at h
    split at h
    · simpa using h
    · split at h
      · simp at h ⊢; tauto
      · simp only [List.mem_cons] at h ⊢
        rcases h with h | h
        · exact .inr (.inl h)
        · rcases ih h with h | h
          · exact .inl h
          · exact .inr (.inr h)

/-- A write keeps the canonical form. -/
theorem Memory.write_wf (m : Memory) (i : Nat) (v : Pixel) (h : m.wf) : (m.write i v).wf := by
  induction m with
  | nil => exact List.pairwise_singleton _ _
  | cons d rest ih =>
    obtain ⟨j, u⟩ := d
    obtain ⟨hj, hr⟩ := List.pairwise_cons.mp h
    simp only [Memory.write]
    split
    · next hij =>
      refine List.pairwise_cons.mpr ⟨fun c hc => ?_, h⟩
      rcases List.mem_cons.mp hc with rfl | hc
      · exact hij
      · exact Nat.lt_trans hij (hj c hc)
    · split
      · next hij => subst hij; exact List.pairwise_cons.mpr ⟨hj, hr⟩
      · refine List.pairwise_cons.mpr ⟨fun c hc => ?_, ih hr⟩
        rcases Memory.mem_write rest i v c hc with rfl | hc
        · simp only; omega
        · exact hj c hc

/-- A fill keeps the canonical form. -/
theorem Memory.fill_wf (m : Memory) (v : Pixel) (n : Nat) (h : m.wf) : (m.fill v n).wf := by
  induction n with
  | zero => exact h
  | succ n ih => exact Memory.write_wf _ _ _ ih

/-- In a canonical list a listed cell is the one a read finds. -/
theorem Memory.read_of_mem (m : Memory) (h : m.wf) (i : Nat) (v : Pixel) (hm : (i, v) ∈ m) : m.read i = some v := by
  induction m with
  | nil => cases hm
  | cons d rest ih =>
    obtain ⟨j, u⟩ := d
    obtain ⟨hj, hr⟩ := List.pairwise_cons.mp h
    rcases List.mem_cons.mp hm with he | hm
    · cases he; simp [Memory.read]
    · have := hj _ hm
      have hne : i ≠ j := by simp only at this; omega
      simp [Memory.read, hne, ih hr hm]

/-- Two canonical lists in which every cell reads the same are the same list. -/
theorem Memory.ext_of_read (m n : Memory) (hm : m.wf) (hn : n.wf) (h : ∀ i, m.read i = n.read i) : m = n := by
  induction m generalizing n with
  | nil =>
    cases n with
    | nil => rfl
    | cons d rest =>
      obtain ⟨j, u⟩ := d
      have := h j
      simp [Memory.read] at this
  | cons c rest ih =>
    obtain ⟨i, v⟩ := c
    obtain ⟨hi, hr⟩ := List.pairwise_cons.mp hm
    cases n with
    | nil => have := h i; simp [Memory.read] at this
    | cons d rest' =>
      obtain ⟨j, u⟩ := d
      obtain ⟨hj, hr'⟩ := List.pairwise_cons.mp hn
      have below : ∀ (l : Memory) (k : Nat), (∀ c ∈ l, k < c.1) → l.read k = none := by
        intro l k hl
        induction l with
        | nil => rfl
        | cons e l ihl =>
          obtain ⟨a, b⟩ := e
          have h1 := hl (a, b) List.mem_cons_self
          have hne : k ≠ a := by simp only at h1; omega
          simp only [Memory.read, hne, if_false]
          exact ihl (fun c hc => hl c (List.mem_cons_of_mem _ hc))
      have hij : i = j := by
        rcases Nat.lt_trichotomy i j with hlt | heq | hgt
        · have hn' : Memory.read ((j, u) :: rest') i = none := by
            refine below _ _ (fun c hc => ?_)
            rcases List.mem_cons.mp hc with rfl | hc
            · exact hlt
            · exact Nat.lt_trans hlt (hj c hc)
          have := h i
          rw [hn'] at this
          simp [Memory.read] at this
        · exact heq
        · have hm' : Memory.read ((i, v) :: rest) j = none := by
            refine below _ _ (fun c hc => ?_)
            rcases List.mem_cons.mp hc with rfl | hc
            · exact hgt
            · exact Nat.lt_trans hgt (hi c hc)
          have := h j
          rw [hm'] at this
          simp [Memory.read] at this
      subst hij
      have hv := h i
      simp [Memory.read] at hv
      subst hv
      have : rest = rest' := by
        refine ih rest' hr hr' (fun k => ?_)
        by_cases hk : k = i
        · subst hk
          rw [below rest k hi, below rest' k hj]
        · have := h k
          simpa [Memory.read, hk] using this
      rw [this]

end Sys2Proof.Machine
end

