-- ==== Sys2Proof/Laws/State.lean ====
section
/-! SUPPORT. What each update of the state leaves in each field: one lemma per field per update. -/

namespace Sys2Proof.Machine

open Sys2Proof.Config (Params)

/-! ### respond -/

@[simp] theorem State.respond_cfg (s : State) (d : BitVec 16) : (s.respond d).cfg = s.cfg := rfl
@[simp] theorem State.respond_rows (s : State) (d : BitVec 16) : (s.respond d).rows = s.rows := rfl
@[simp] theorem State.respond_cols (s : State) (d : BitVec 16) : (s.respond d).cols = s.cols := rfl
@[simp] theorem State.respond_fb (s : State) (d : BitVec 16) : (s.respond d).fb = s.fb := rfl
@[simp] theorem State.respond_clk (s : State) (d : BitVec 16) : (s.respond d).clk = s.clk := rfl
@[simp] theorem State.respond_data (s : State) (d : BitVec 16) : (s.respond d).data = s.data := rfl
@[simp] theorem State.respond_phase (s : State) (d : BitVec 16) : (s.respond d).phase = s.phase := rfl
@[simp] theorem State.respond_widx (s : State) (d : BitVec 16) : (s.respond d).widx = s.widx := rfl
@[simp] theorem State.respond_bidx (s : State) (d : BitVec 16) : (s.respond d).bidx = s.bidx := rfl
@[simp] theorem State.respond_sub (s : State) (d : BitVec 16) : (s.respond d).sub = s.sub := rfl
@[simp] theorem State.respond_pcnt (s : State) (d : BitVec 16) : (s.respond d).pcnt = s.pcnt := rfl
@[simp] theorem State.respond_word (s : State) (d : BitVec 16) : (s.respond d).word = s.word := rfl
@[simp] theorem State.respond_clkO (s : State) (d : BitVec 16) : (s.respond d).clkO = s.clkO := rfl
@[simp] theorem State.respond_dataO (s : State) (d : BitVec 16) : (s.respond d).dataO = s.dataO := rfl
@[simp] theorem State.respond_rsp (s : State) (d : BitVec 16) : (s.respond d).rsp = some ⟨.ok, d⟩ := rfl
@[simp] theorem State.respond_op (s : State) (d : BitVec 16) : (s.respond d).op = s.op := rfl
@[simp] theorem State.respond_trace (s : State) (d : BitVec 16) : (s.respond d).trace = s.trace := rfl
@[simp] theorem State.respond_inputs (s : State) (d : BitVec 16) : (s.respond d).inputs = s.inputs := rfl

/-! ### raise -/

@[simp] theorem State.raise_cfg (s : State) (e : Status) (d : BitVec 16) : (s.raise e d).cfg = s.cfg := rfl
@[simp] theorem State.raise_rows (s : State) (e : Status) (d : BitVec 16) : (s.raise e d).rows = s.rows := rfl
@[simp] theorem State.raise_cols (s : State) (e : Status) (d : BitVec 16) : (s.raise e d).cols = s.cols := rfl
@[simp] theorem State.raise_fb (s : State) (e : Status) (d : BitVec 16) : (s.raise e d).fb = s.fb := rfl
@[simp] theorem State.raise_clk (s : State) (e : Status) (d : BitVec 16) : (s.raise e d).clk = s.clk := rfl
@[simp] theorem State.raise_data (s : State) (e : Status) (d : BitVec 16) : (s.raise e d).data = s.data := rfl
@[simp] theorem State.raise_phase (s : State) (e : Status) (d : BitVec 16) : (s.raise e d).phase = s.phase := rfl
@[simp] theorem State.raise_widx (s : State) (e : Status) (d : BitVec 16) : (s.raise e d).widx = s.widx := rfl
@[simp] theorem State.raise_bidx (s : State) (e : Status) (d : BitVec 16) : (s.raise e d).bidx = s.bidx := rfl
@[simp] theorem State.raise_sub (s : State) (e : Status) (d : BitVec 16) : (s.raise e d).sub = s.sub := rfl
@[simp] theorem State.raise_pcnt (s : State) (e : Status) (d : BitVec 16) : (s.raise e d).pcnt = s.pcnt := rfl
@[simp] theorem State.raise_word (s : State) (e : Status) (d : BitVec 16) : (s.raise e d).word = s.word := rfl
@[simp] theorem State.raise_clkO (s : State) (e : Status) (d : BitVec 16) : (s.raise e d).clkO = s.clkO := rfl
@[simp] theorem State.raise_dataO (s : State) (e : Status) (d : BitVec 16) : (s.raise e d).dataO = s.dataO := rfl
@[simp] theorem State.raise_rsp (s : State) (e : Status) (d : BitVec 16) : (s.raise e d).rsp = some ⟨e, d⟩ := rfl
@[simp] theorem State.raise_op (s : State) (e : Status) (d : BitVec 16) : (s.raise e d).op = s.op := rfl
@[simp] theorem State.raise_trace (s : State) (e : Status) (d : BitVec 16) : (s.raise e d).trace = s.trace := rfl
@[simp] theorem State.raise_inputs (s : State) (e : Status) (d : BitVec 16) : (s.raise e d).inputs = s.inputs := rfl

/-! ### toIdle -/

@[simp] theorem State.toIdle_cfg (s : State) : s.toIdle.cfg = s.cfg := rfl
@[simp] theorem State.toIdle_rows (s : State) : s.toIdle.rows = s.rows := rfl
@[simp] theorem State.toIdle_cols (s : State) : s.toIdle.cols = s.cols := rfl
@[simp] theorem State.toIdle_fb (s : State) : s.toIdle.fb = s.fb := rfl
@[simp] theorem State.toIdle_clk (s : State) : s.toIdle.clk = s.clk := rfl
@[simp] theorem State.toIdle_data (s : State) : s.toIdle.data = s.data := rfl
@[simp] theorem State.toIdle_phase (s : State) : s.toIdle.phase = .idle := rfl
@[simp] theorem State.toIdle_widx (s : State) : s.toIdle.widx = 0 := rfl
@[simp] theorem State.toIdle_bidx (s : State) : s.toIdle.bidx = 0 := rfl
@[simp] theorem State.toIdle_sub (s : State) : s.toIdle.sub = 0 := rfl
@[simp] theorem State.toIdle_pcnt (s : State) : s.toIdle.pcnt = 0 := rfl
@[simp] theorem State.toIdle_word (s : State) : s.toIdle.word = 0 := rfl
@[simp] theorem State.toIdle_clkO (s : State) : s.toIdle.clkO = s.clkO := rfl
@[simp] theorem State.toIdle_dataO (s : State) : s.toIdle.dataO = s.dataO := rfl
@[simp] theorem State.toIdle_rsp (s : State) : s.toIdle.rsp = s.rsp := rfl
@[simp] theorem State.toIdle_op (s : State) : s.toIdle.op = s.op := rfl
@[simp] theorem State.toIdle_trace (s : State) : s.toIdle.trace = s.trace := rfl
@[simp] theorem State.toIdle_inputs (s : State) : s.toIdle.inputs = s.inputs := rfl

/-! ### toStart -/

@[simp] theorem State.toStart_cfg (s : State) : s.toStart.cfg = s.cfg := rfl
@[simp] theorem State.toStart_rows (s : State) : s.toStart.rows = s.rows := rfl
@[simp] theorem State.toStart_cols (s : State) : s.toStart.cols = s.cols := rfl
@[simp] theorem State.toStart_fb (s : State) : s.toStart.fb = s.fb := rfl
@[simp] theorem State.toStart_clk (s : State) : s.toStart.clk = s.clk := rfl
@[simp] theorem State.toStart_data (s : State) : s.toStart.data = s.data := rfl
@[simp] theorem State.toStart_phase (s : State) : s.toStart.phase = .start := rfl
@[simp] theorem State.toStart_widx (s : State) : s.toStart.widx = 0 := rfl
@[simp] theorem State.toStart_bidx (s : State) : s.toStart.bidx = 0 := rfl
@[simp] theorem State.toStart_sub (s : State) : s.toStart.sub = 0 := rfl
@[simp] theorem State.toStart_pcnt (s : State) : s.toStart.pcnt = 0 := rfl
@[simp] theorem State.toStart_word (s : State) : s.toStart.word = s.word := rfl
@[simp] theorem State.toStart_clkO (s : State) : s.toStart.clkO = s.clkO := rfl
@[simp] theorem State.toStart_dataO (s : State) : s.toStart.dataO = s.dataO := rfl
@[simp] theorem State.toStart_rsp (s : State) : s.toStart.rsp = s.rsp := rfl
@[simp] theorem State.toStart_op (s : State) : s.toStart.op = s.op := rfl
@[simp] theorem State.toStart_trace (s : State) : s.toStart.trace = s.trace := rfl
@[simp] theorem State.toStart_inputs (s : State) : s.toStart.inputs = s.inputs := rfl

/-! ### toWord -/

@[simp] theorem State.toWord_cfg (s : State) (k : BitVec 12) (w : TxWord) : (s.toWord k w).cfg = s.cfg := rfl
@[simp] theorem State.toWord_rows (s : State) (k : BitVec 12) (w : TxWord) : (s.toWord k w).rows = s.rows := rfl
@[simp] theorem State.toWord_cols (s : State) (k : BitVec 12) (w : TxWord) : (s.toWord k w).cols = s.cols := rfl
@[simp] theorem State.toWord_fb (s : State) (k : BitVec 12) (w : TxWord) : (s.toWord k w).fb = s.fb := rfl
@[simp] theorem State.toWord_clk (s : State) (k : BitVec 12) (w : TxWord) : (s.toWord k w).clk = s.clk := rfl
@[simp] theorem State.toWord_data (s : State) (k : BitVec 12) (w : TxWord) : (s.toWord k w).data = s.data := rfl
@[simp] theorem State.toWord_phase (s : State) (k : BitVec 12) (w : TxWord) : (s.toWord k w).phase = .word := rfl
@[simp] theorem State.toWord_widx (s : State) (k : BitVec 12) (w : TxWord) : (s.toWord k w).widx = k := rfl
@[simp] theorem State.toWord_bidx (s : State) (k : BitVec 12) (w : TxWord) : (s.toWord k w).bidx = 15 := rfl
@[simp] theorem State.toWord_sub (s : State) (k : BitVec 12) (w : TxWord) : (s.toWord k w).sub = 0 := rfl
@[simp] theorem State.toWord_pcnt (s : State) (k : BitVec 12) (w : TxWord) : (s.toWord k w).pcnt = 0 := rfl
@[simp] theorem State.toWord_word (s : State) (k : BitVec 12) (w : TxWord) : (s.toWord k w).word = w := rfl
@[simp] theorem State.toWord_clkO (s : State) (k : BitVec 12) (w : TxWord) : (s.toWord k w).clkO = s.clkO := rfl
@[simp] theorem State.toWord_dataO (s : State) (k : BitVec 12) (w : TxWord) : (s.toWord k w).dataO = s.dataO := rfl
@[simp] theorem State.toWord_rsp (s : State) (k : BitVec 12) (w : TxWord) : (s.toWord k w).rsp = s.rsp := rfl
@[simp] theorem State.toWord_op (s : State) (k : BitVec 12) (w : TxWord) : (s.toWord k w).op = s.op := rfl
@[simp] theorem State.toWord_trace (s : State) (k : BitVec 12) (w : TxWord) : (s.toWord k w).trace = s.trace := rfl
@[simp] theorem State.toWord_inputs (s : State) (k : BitVec 12) (w : TxWord) : (s.toWord k w).inputs = s.inputs := rfl

/-! ### toLatch -/

@[simp] theorem State.toLatch_cfg (s : State) : s.toLatch.cfg = s.cfg := rfl
@[simp] theorem State.toLatch_rows (s : State) : s.toLatch.rows = s.rows := rfl
@[simp] theorem State.toLatch_cols (s : State) : s.toLatch.cols = s.cols := rfl
@[simp] theorem State.toLatch_fb (s : State) : s.toLatch.fb = s.fb := rfl
@[simp] theorem State.toLatch_clk (s : State) : s.toLatch.clk = s.clk := rfl
@[simp] theorem State.toLatch_data (s : State) : s.toLatch.data = s.data := rfl
@[simp] theorem State.toLatch_phase (s : State) : s.toLatch.phase = .latch := rfl
@[simp] theorem State.toLatch_widx (s : State) : s.toLatch.widx = 0 := rfl
@[simp] theorem State.toLatch_bidx (s : State) : s.toLatch.bidx = 0 := rfl
@[simp] theorem State.toLatch_sub (s : State) : s.toLatch.sub = 0 := rfl
@[simp] theorem State.toLatch_pcnt (s : State) : s.toLatch.pcnt = 0 := rfl
@[simp] theorem State.toLatch_word (s : State) : s.toLatch.word = 0 := rfl
@[simp] theorem State.toLatch_clkO (s : State) : s.toLatch.clkO = s.clkO := rfl
@[simp] theorem State.toLatch_dataO (s : State) : s.toLatch.dataO = s.dataO := rfl
@[simp] theorem State.toLatch_rsp (s : State) : s.toLatch.rsp = s.rsp := rfl
@[simp] theorem State.toLatch_op (s : State) : s.toLatch.op = s.op := rfl
@[simp] theorem State.toLatch_trace (s : State) : s.toLatch.trace = s.trace := rfl
@[simp] theorem State.toLatch_inputs (s : State) : s.toLatch.inputs = s.inputs := rfl

/-! ### beginStep -/

@[simp] theorem State.beginStep_cfg (s : State) (l : List Signals) : (s.beginStep l).cfg = s.cfg := rfl
@[simp] theorem State.beginStep_rows (s : State) (l : List Signals) : (s.beginStep l).rows = s.rows := rfl
@[simp] theorem State.beginStep_cols (s : State) (l : List Signals) : (s.beginStep l).cols = s.cols := rfl
@[simp] theorem State.beginStep_fb (s : State) (l : List Signals) : (s.beginStep l).fb = s.fb := rfl
@[simp] theorem State.beginStep_clk (s : State) (l : List Signals) : (s.beginStep l).clk = s.clk := rfl
@[simp] theorem State.beginStep_data (s : State) (l : List Signals) : (s.beginStep l).data = s.data := rfl
@[simp] theorem State.beginStep_phase (s : State) (l : List Signals) : (s.beginStep l).phase = s.phase := rfl
@[simp] theorem State.beginStep_widx (s : State) (l : List Signals) : (s.beginStep l).widx = s.widx := rfl
@[simp] theorem State.beginStep_bidx (s : State) (l : List Signals) : (s.beginStep l).bidx = s.bidx := rfl
@[simp] theorem State.beginStep_sub (s : State) (l : List Signals) : (s.beginStep l).sub = s.sub := rfl
@[simp] theorem State.beginStep_pcnt (s : State) (l : List Signals) : (s.beginStep l).pcnt = s.pcnt := rfl
@[simp] theorem State.beginStep_word (s : State) (l : List Signals) : (s.beginStep l).word = s.word := rfl
@[simp] theorem State.beginStep_clkO (s : State) (l : List Signals) : (s.beginStep l).clkO = s.clkO := rfl
@[simp] theorem State.beginStep_dataO (s : State) (l : List Signals) : (s.beginStep l).dataO = s.dataO := rfl
@[simp] theorem State.beginStep_rsp (s : State) (l : List Signals) : (s.beginStep l).rsp = none := rfl
@[simp] theorem State.beginStep_op (s : State) (l : List Signals) : (s.beginStep l).op = none := rfl
@[simp] theorem State.beginStep_trace (s : State) (l : List Signals) : (s.beginStep l).trace = s.trace := rfl
@[simp] theorem State.beginStep_inputs (s : State) (l : List Signals) : (s.beginStep l).inputs = l := rfl

/-! ### accept -/

@[simp] theorem State.accept_cfg (s : State) (l : List Signals) : (s.accept l).cfg = s.cfg := rfl
@[simp] theorem State.accept_rows (s : State) (l : List Signals) : (s.accept l).rows = s.rows := rfl
@[simp] theorem State.accept_cols (s : State) (l : List Signals) : (s.accept l).cols = s.cols := rfl
@[simp] theorem State.accept_fb (s : State) (l : List Signals) : (s.accept l).fb = s.fb := rfl
@[simp] theorem State.accept_clk (s : State) (l : List Signals) : (s.accept l).clk = s.clk := rfl
@[simp] theorem State.accept_data (s : State) (l : List Signals) : (s.accept l).data = s.data := rfl
@[simp] theorem State.accept_phase (s : State) (l : List Signals) : (s.accept l).phase = s.phase := rfl
@[simp] theorem State.accept_widx (s : State) (l : List Signals) : (s.accept l).widx = s.widx := rfl
@[simp] theorem State.accept_bidx (s : State) (l : List Signals) : (s.accept l).bidx = s.bidx := rfl
@[simp] theorem State.accept_sub (s : State) (l : List Signals) : (s.accept l).sub = s.sub := rfl
@[simp] theorem State.accept_pcnt (s : State) (l : List Signals) : (s.accept l).pcnt = s.pcnt := rfl
@[simp] theorem State.accept_word (s : State) (l : List Signals) : (s.accept l).word = s.word := rfl
@[simp] theorem State.accept_clkO (s : State) (l : List Signals) : (s.accept l).clkO = s.clkO := rfl
@[simp] theorem State.accept_dataO (s : State) (l : List Signals) : (s.accept l).dataO = s.dataO := rfl
@[simp] theorem State.accept_rsp (s : State) (l : List Signals) : (s.accept l).rsp = none := rfl
@[simp] theorem State.accept_op (s : State) (l : List Signals) : (s.accept l).op = none := rfl
@[simp] theorem State.accept_trace (s : State) (l : List Signals) : (s.accept l).trace = [] := rfl
@[simp] theorem State.accept_inputs (s : State) (l : List Signals) : (s.accept l).inputs = l := rfl

/-! ### build -/

@[simp] theorem State.build_cfg (s : State) (p : Params) (r c : BitVec 6) (v : BitVec 16) : (s.build p r c v).cfg = true := rfl
@[simp] theorem State.build_rows (s : State) (p : Params) (r c : BitVec 6) (v : BitVec 16) : (s.build p r c v).rows = r := rfl
@[simp] theorem State.build_cols (s : State) (p : Params) (r c : BitVec 6) (v : BitVec 16) : (s.build p r c v).cols = c := rfl
@[simp] theorem State.build_fb (s : State) (p : Params) (r c : BitVec 6) (v : BitVec 16) : (s.build p r c v).fb = s.fb.fill (lowBits p.w v) (r.toNat * c.toNat) := rfl
@[simp] theorem State.build_clk (s : State) (p : Params) (r c : BitVec 6) (v : BitVec 16) : (s.build p r c v).clk = s.clk := rfl
@[simp] theorem State.build_data (s : State) (p : Params) (r c : BitVec 6) (v : BitVec 16) : (s.build p r c v).data = s.data := rfl
@[simp] theorem State.build_phase (s : State) (p : Params) (r c : BitVec 6) (v : BitVec 16) : (s.build p r c v).phase = s.phase := rfl
@[simp] theorem State.build_widx (s : State) (p : Params) (r c : BitVec 6) (v : BitVec 16) : (s.build p r c v).widx = s.widx := rfl
@[simp] theorem State.build_bidx (s : State) (p : Params) (r c : BitVec 6) (v : BitVec 16) : (s.build p r c v).bidx = s.bidx := rfl
@[simp] theorem State.build_sub (s : State) (p : Params) (r c : BitVec 6) (v : BitVec 16) : (s.build p r c v).sub = s.sub := rfl
@[simp] theorem State.build_pcnt (s : State) (p : Params) (r c : BitVec 6) (v : BitVec 16) : (s.build p r c v).pcnt = s.pcnt := rfl
@[simp] theorem State.build_word (s : State) (p : Params) (r c : BitVec 6) (v : BitVec 16) : (s.build p r c v).word = s.word := rfl
@[simp] theorem State.build_clkO (s : State) (p : Params) (r c : BitVec 6) (v : BitVec 16) : (s.build p r c v).clkO = s.clkO := rfl
@[simp] theorem State.build_dataO (s : State) (p : Params) (r c : BitVec 6) (v : BitVec 16) : (s.build p r c v).dataO = s.dataO := rfl
@[simp] theorem State.build_rsp (s : State) (p : Params) (r c : BitVec 6) (v : BitVec 16) : (s.build p r c v).rsp = s.rsp := rfl
@[simp] theorem State.build_op (s : State) (p : Params) (r c : BitVec 6) (v : BitVec 16) : (s.build p r c v).op = s.op := rfl
@[simp] theorem State.build_trace (s : State) (p : Params) (r c : BitVec 6) (v : BitVec 16) : (s.build p r c v).trace = s.trace := rfl
@[simp] theorem State.build_inputs (s : State) (p : Params) (r c : BitVec 6) (v : BitVec 16) : (s.build p r c v).inputs = s.inputs := rfl

/-! ### putPixel -/

@[simp] theorem State.putPixel_cfg (s : State) (p : Params) (r c : BitVec 6) (v : BitVec 16) : (s.putPixel p r c v).cfg = s.cfg := rfl
@[simp] theorem State.putPixel_rows (s : State) (p : Params) (r c : BitVec 6) (v : BitVec 16) : (s.putPixel p r c v).rows = s.rows := rfl
@[simp] theorem State.putPixel_cols (s : State) (p : Params) (r c : BitVec 6) (v : BitVec 16) : (s.putPixel p r c v).cols = s.cols := rfl
@[simp] theorem State.putPixel_fb (s : State) (p : Params) (r c : BitVec 6) (v : BitVec 16) : (s.putPixel p r c v).fb = s.fb.write (s.cellIndex r c) (lowBits p.w v) := rfl
@[simp] theorem State.putPixel_clk (s : State) (p : Params) (r c : BitVec 6) (v : BitVec 16) : (s.putPixel p r c v).clk = s.clk := rfl
@[simp] theorem State.putPixel_data (s : State) (p : Params) (r c : BitVec 6) (v : BitVec 16) : (s.putPixel p r c v).data = s.data := rfl
@[simp] theorem State.putPixel_phase (s : State) (p : Params) (r c : BitVec 6) (v : BitVec 16) : (s.putPixel p r c v).phase = s.phase := rfl
@[simp] theorem State.putPixel_widx (s : State) (p : Params) (r c : BitVec 6) (v : BitVec 16) : (s.putPixel p r c v).widx = s.widx := rfl
@[simp] theorem State.putPixel_bidx (s : State) (p : Params) (r c : BitVec 6) (v : BitVec 16) : (s.putPixel p r c v).bidx = s.bidx := rfl
@[simp] theorem State.putPixel_sub (s : State) (p : Params) (r c : BitVec 6) (v : BitVec 16) : (s.putPixel p r c v).sub = s.sub := rfl
@[simp] theorem State.putPixel_pcnt (s : State) (p : Params) (r c : BitVec 6) (v : BitVec 16) : (s.putPixel p r c v).pcnt = s.pcnt := rfl
@[simp] theorem State.putPixel_word (s : State) (p : Params) (r c : BitVec 6) (v : BitVec 16) : (s.putPixel p r c v).word = s.word := rfl
@[simp] theorem State.putPixel_clkO (s : State) (p : Params) (r c : BitVec 6) (v : BitVec 16) : (s.putPixel p r c v).clkO = s.clkO := rfl
@[simp] theorem State.putPixel_dataO (s : State) (p : Params) (r c : BitVec 6) (v : BitVec 16) : (s.putPixel p r c v).dataO = s.dataO := rfl
@[simp] theorem State.putPixel_rsp (s : State) (p : Params) (r c : BitVec 6) (v : BitVec 16) : (s.putPixel p r c v).rsp = s.rsp := rfl
@[simp] theorem State.putPixel_op (s : State) (p : Params) (r c : BitVec 6) (v : BitVec 16) : (s.putPixel p r c v).op = s.op := rfl
@[simp] theorem State.putPixel_trace (s : State) (p : Params) (r c : BitVec 6) (v : BitVec 16) : (s.putPixel p r c v).trace = s.trace := rfl
@[simp] theorem State.putPixel_inputs (s : State) (p : Params) (r c : BitVec 6) (v : BitVec 16) : (s.putPixel p r c v).inputs = s.inputs := rfl

/-! ### perform -/

@[simp] theorem State.perform_cfg (s : State) (o : Op) (r : Answer) : (s.perform o r).cfg = s.cfg := by
  cases o <;> rfl
@[simp] theorem State.perform_rows (s : State) (o : Op) (r : Answer) : (s.perform o r).rows = s.rows := by
  cases o <;> rfl
@[simp] theorem State.perform_cols (s : State) (o : Op) (r : Answer) : (s.perform o r).cols = s.cols := by
  cases o <;> rfl
@[simp] theorem State.perform_fb (s : State) (o : Op) (r : Answer) : (s.perform o r).fb = s.fb := by
  cases o <;> rfl
@[simp] theorem State.perform_phase (s : State) (o : Op) (r : Answer) : (s.perform o r).phase = s.phase := by
  cases o <;> rfl
@[simp] theorem State.perform_widx (s : State) (o : Op) (r : Answer) : (s.perform o r).widx = s.widx := by
  cases o <;> rfl
@[simp] theorem State.perform_bidx (s : State) (o : Op) (r : Answer) : (s.perform o r).bidx = s.bidx := by
  cases o <;> rfl
@[simp] theorem State.perform_sub (s : State) (o : Op) (r : Answer) : (s.perform o r).sub = s.sub := by
  cases o <;> rfl
@[simp] theorem State.perform_pcnt (s : State) (o : Op) (r : Answer) : (s.perform o r).pcnt = s.pcnt := by
  cases o <;> rfl
@[simp] theorem State.perform_word (s : State) (o : Op) (r : Answer) : (s.perform o r).word = s.word := by
  cases o <;> rfl
@[simp] theorem State.perform_rsp (s : State) (o : Op) (r : Answer) : (s.perform o r).rsp = s.rsp := by
  cases o <;> rfl
@[simp] theorem State.perform_op (s : State) (o : Op) (r : Answer) : (s.perform o r).op = some o := by
  cases o <;> rfl
@[simp] theorem State.perform_trace (s : State) (o : Op) (r : Answer) : (s.perform o r).trace = s.trace ++ [⟨o, r⟩] := by
  cases o <;> rfl
@[simp] theorem State.perform_inputs (s : State) (o : Op) (r : Answer) : (s.perform o r).inputs = s.inputs := by
  cases o <;> rfl
@[simp] theorem State.perform_setClk_clk (s : State) (v : Level) (r : Answer) :
    (s.perform (.setClk v) r).clk = lineAfter v r := rfl
@[simp] theorem State.perform_setClk_data (s : State) (v : Level) (r : Answer) :
    (s.perform (.setClk v) r).data = s.data := rfl
@[simp] theorem State.perform_setClk_clkO (s : State) (v : Level) (r : Answer) :
    (s.perform (.setClk v) r).clkO = v := rfl
@[simp] theorem State.perform_setClk_dataO (s : State) (v : Level) (r : Answer) :
    (s.perform (.setClk v) r).dataO = s.dataO := rfl
@[simp] theorem State.perform_setData_clk (s : State) (v : Level) (r : Answer) :
    (s.perform (.setData v) r).clk = s.clk := rfl
@[simp] theorem State.perform_setData_data (s : State) (v : Level) (r : Answer) :
    (s.perform (.setData v) r).data = lineAfter v r := rfl
@[simp] theorem State.perform_setData_clkO (s : State) (v : Level) (r : Answer) :
    (s.perform (.setData v) r).clkO = s.clkO := rfl
@[simp] theorem State.perform_setData_dataO (s : State) (v : Level) (r : Answer) :
    (s.perform (.setData v) r).dataO = v := rfl
@[simp] theorem State.perform_delay_clk (s : State) (d : Nat) (r : Answer) :
    (s.perform (.delay d) r).clk = s.clk := rfl
@[simp] theorem State.perform_delay_data (s : State) (d : Nat) (r : Answer) :
    (s.perform (.delay d) r).data = s.data := rfl
@[simp] theorem State.perform_delay_clkO (s : State) (d : Nat) (r : Answer) :
    (s.perform (.delay d) r).clkO = s.clkO := rfl
@[simp] theorem State.perform_delay_dataO (s : State) (d : Nat) (r : Answer) :
    (s.perform (.delay d) r).dataO = s.dataO := rfl

/-! ### The derived readings -/

@[simp] theorem State.respond_cells (s : State) (d : BitVec 16) : (s.respond d).cells = s.cells := rfl
@[simp] theorem State.raise_cells (s : State) (e : Status) (d : BitVec 16) : (s.raise e d).cells = s.cells := rfl
@[simp] theorem State.toIdle_cells (s : State) : s.toIdle.cells = s.cells := rfl
@[simp] theorem State.toStart_cells (s : State) : s.toStart.cells = s.cells := rfl
@[simp] theorem State.toWord_cells (s : State) (k : BitVec 12) (w : TxWord) : (s.toWord k w).cells = s.cells := rfl
@[simp] theorem State.toLatch_cells (s : State) : s.toLatch.cells = s.cells := rfl
@[simp] theorem State.beginStep_cells (s : State) (l : List Signals) : (s.beginStep l).cells = s.cells := rfl
@[simp] theorem State.accept_cells (s : State) (l : List Signals) : (s.accept l).cells = s.cells := rfl
@[simp] theorem State.putPixel_cells (s : State) (p : Params) (r c : BitVec 6) (v : BitVec 16) : (s.putPixel p r c v).cells = s.cells := rfl
@[simp] theorem State.build_cells (s : State) (p : Params) (r c : BitVec 6) (v : BitVec 16) :
    (s.build p r c v).cells = r.toNat * c.toNat := rfl
@[simp] theorem State.perform_cells (s : State) (o : Op) (r : Answer) : (s.perform o r).cells = s.cells := by
  cases o <;> rfl
@[simp] theorem State.perform_scanPixel (p : Params) (s : State) (o : Op) (r : Answer) (k : Nat) :
    (s.perform o r).scanPixel p k = s.scanPixel p k := by
  cases o <;> rfl
@[simp] theorem State.perform_scanIndex (p : Params) (s : State) (o : Op) (r : Answer) (k : Nat) :
    (s.perform o r).scanIndex p k = s.scanIndex p k := by
  cases o <;> rfl
@[simp] theorem State.toIdle_scanPixel (s : State) (p : Params) (j : Nat) :
    s.toIdle.scanPixel p j = s.scanPixel p j := rfl
@[simp] theorem State.toStart_scanPixel (s : State) (p : Params) (j : Nat) :
    s.toStart.scanPixel p j = s.scanPixel p j := rfl
@[simp] theorem State.toLatch_scanPixel (s : State) (p : Params) (j : Nat) :
    s.toLatch.scanPixel p j = s.scanPixel p j := rfl
@[simp] theorem State.beginStep_scanPixel (s : State) (l : List Signals) (p : Params) (j : Nat) :
    (s.beginStep l).scanPixel p j = s.scanPixel p j := rfl
@[simp] theorem State.accept_scanPixel (s : State) (l : List Signals) (p : Params) (j : Nat) :
    (s.accept l).scanPixel p j = s.scanPixel p j := rfl
@[simp] theorem State.toWord_scanPixel (s : State) (k : BitVec 12) (w : TxWord) (p : Params) (j : Nat) :
    (s.toWord k w).scanPixel p j = s.scanPixel p j := rfl
@[simp] theorem State.respond_scanPixel (s : State) (d : BitVec 16) (p : Params) (j : Nat) :
    (s.respond d).scanPixel p j = s.scanPixel p j := rfl
@[simp] theorem State.raise_scanPixel (s : State) (e : Status) (d : BitVec 16) (p : Params) (j : Nat) :
    (s.raise e d).scanPixel p j = s.scanPixel p j := rfl

end Sys2Proof.Machine
end

