-- ==== Sys2Proof/Laws/Exec.lean ====
section
/-! SUPPORT. What each command can do, said once: the status its checks decide, and the next state it answers. -/

namespace Sys2Proof.Machine

open Sys2Proof.Config (Params)

/-- A value of the domain is stored whole (R56, R61). -/
theorem lowBits_of_lt (w : Nat) (v : BitVec 16) (h : v.toNat < 2 ^ w) : lowBits w v = v := by
  apply BitVec.eq_of_toNat_eq
  have := v.isLt
  simp [lowBits, Nat.mod_eq_of_lt h]

theorem inBounds_iff (s : State) (row col : BitVec 6) :
    s.inBounds row col = true ↔ row.toNat < s.rows.toNat ∧ col.toNat < s.cols.toNat := by
  simp [State.inBounds]

theorem dimensionsOk_iff (p : Params) (rows cols : BitVec 6) :
    dimensionsOk p rows cols = true ↔
      (1 ≤ rows.toNat ∧ rows.toNat ≤ p.maxRows) ∧ (1 ≤ cols.toNat ∧ cols.toNat ≤ p.maxCols) := by
  simp only [dimensionsOk, decide_eq_true_eq]
  omega

theorem valueOk_iff (p : Params) (v : BitVec 16) : valueOk p v = true ↔ v.toNat ≤ p.maxIntensity := by
  simp [valueOk]

/-- The cell index of an in-bounds pair is below `N` (R29). -/
theorem cellIndex_lt (s : State) (row col : BitVec 6) (h : s.inBounds row col = true) :
    s.cellIndex row col < s.cells := by
  obtain ⟨hr, hc⟩ := (inBounds_iff s row col).mp h
  have : (row.toNat + 1) * s.cols.toNat ≤ s.rows.toNat * s.cols.toNat := Nat.mul_le_mul_right _ hr
  simp only [State.cellIndex, State.cells]
  rw [Nat.add_mul] at this
  omega

theorem cells_lt (s : State) : s.cells < 4096 := by
  have h1 := s.rows.isLt
  have h2 := s.cols.isLt
  have : s.rows.toNat * s.cols.toNat ≤ 63 * 63 := Nat.mul_le_mul (by omega) (by omega)
  simp only [State.cells]
  omega

theorem initStatus_ok_iff (p : Params) (s : State) (rows cols : BitVec 6) (fill : BitVec 16) :
    initStatus p s rows cols fill = .ok ↔
      s.cfg = false ∧ dimensionsOk p rows cols = true ∧ valueOk p fill = true := by
  unfold initStatus; split <;> [simp_all; split <;> [simp_all; split <;> simp_all]]

theorem setStatus_ok_iff (p : Params) (s : State) (row col : BitVec 6) (v : BitVec 16) :
    setStatus p s row col v = .ok ↔ s.cfg = true ∧ s.inBounds row col = true ∧ valueOk p v = true := by
  unfold setStatus; split <;> [simp_all; split <;> [simp_all; split <;> simp_all]]

theorem getStatus_ok_iff (s : State) (row col : BitVec 6) :
    getStatus s row col = .ok ↔ s.cfg = true ∧ s.inBounds row col = true := by
  unfold getStatus; split <;> [simp_all; split <;> simp_all]

theorem scanrdStatus_ok_iff (s : State) (k : BitVec 12) :
    scanrdStatus s k = .ok ↔ s.cfg = true ∧ k.toNat < s.cells := by
  unfold scanrdStatus; split <;> [simp_all; split <;> simp_all]

theorem showStatus_ok_iff (s : State) : showStatus s = .ok ↔ s.cfg = true := by
  unfold showStatus; split <;> simp_all

theorem initAt_ok (p : Params) (rows cols : BitVec 6) (fill : BitVec 16) (s : State)
    (h : initStatus p s rows cols fill = .ok) :
    initAt p rows cols fill s = .next ((s.build p rows cols fill).respond 0) := by
  simp [initAt, h]

theorem initAt_error (p : Params) (rows cols : BitVec 6) (fill : BitVec 16) (s : State)
    (h : initStatus p s rows cols fill ≠ .ok) :
    initAt p rows cols fill s = .next (s.raise (initStatus p s rows cols fill) 0) := by
  unfold initAt; split <;> [exact absurd ‹_› h; rfl]

theorem setAt_ok (p : Params) (row col : BitVec 6) (v : BitVec 16) (s : State) (h : setStatus p s row col v = .ok) :
    setAt p row col v s = .next ((s.putPixel p row col v).respond 0) := by
  simp [setAt, h]

theorem setAt_error (p : Params) (row col : BitVec 6) (v : BitVec 16) (s : State) (h : setStatus p s row col v ≠ .ok) :
    setAt p row col v s = .next (s.raise (setStatus p s row col v) 0) := by
  unfold setAt; split <;> [exact absurd ‹_› h; rfl]

theorem getAt_ok (row col : BitVec 6) (s : State) (h : getStatus s row col = .ok) :
    getAt row col s = s.respondCell (s.cellIndex row col) := by
  simp [getAt, h]

theorem getAt_error (row col : BitVec 6) (s : State) (h : getStatus s row col ≠ .ok) :
    getAt row col s = .next (s.raise (getStatus s row col) 0) := by
  unfold getAt; split <;> [exact absurd ‹_› h; rfl]

theorem scanrdAt_ok (p : Params) (k : BitVec 12) (s : State) (h : scanrdStatus s k = .ok) :
    scanrdAt p k s = s.respondCell (s.scanIndex p k.toNat) := by
  simp [scanrdAt, h]

theorem scanrdAt_error (p : Params) (k : BitVec 12) (s : State) (h : scanrdStatus s k ≠ .ok) :
    scanrdAt p k s = .next (s.raise (scanrdStatus s k) 0) := by
  unfold scanrdAt; split <;> [exact absurd ‹_› h; rfl]

theorem showAt_ok (s : State) (h : showStatus s = .ok) : showAt s = .next s.toStart := by
  simp [showAt, h]

theorem showAt_error (s : State) (h : showStatus s ≠ .ok) : showAt s = .next (s.raise (showStatus s) 0) := by
  unfold showAt; split <;> [exact absurd ‹_› h; rfl]

theorem respondCell_next (s t : State) (i : Nat) (h : s.respondCell i = .next t) :
    ∃ v, s.fb.read i = some v ∧ t = s.respond v := by
  unfold State.respondCell at h
  split at h
  · next v hv => exact ⟨v, hv, by cases h; rfl⟩
  · cases h

/-- The status a command's checks decide. -/
def checkStatus (i : Instr) (s : State) : Status :=
  match i with
  | .init rows cols fill => initStatus Config.params s rows cols fill
  | .set row col value => setStatus Config.params s row col value
  | .get row col => getStatus s row col
  | .scanrd k => scanrdStatus s k
  | .showFb => showStatus s

/-- A command whose checks fail writes nothing but the response (R54, R93). -/
theorem exec_error (i : Instr) (s : State) (h : checkStatus i s ≠ .ok) :
    exec i s = .next (s.raise (checkStatus i s) 0) := by
  cases i with
  | init r c v => exact initAt_error _ _ _ _ _ h
  | set r c v => exact setAt_error _ _ _ _ _ h
  | get r c => exact getAt_error _ _ _ h
  | scanrd k => exact scanrdAt_error _ _ _ h
  | showFb => exact showAt_error _ h

/-- The effect of a command whose checks pass. -/
inductive Done : Instr → State → State → Prop where
  | init (s : State) (rows cols : BitVec 6) (fill : BitVec 16) :
      Done (.init rows cols fill) s ((s.build Config.params rows cols fill).respond 0)
  | set (s : State) (row col : BitVec 6) (v : BitVec 16) :
      Done (.set row col v) s ((s.putPixel Config.params row col v).respond 0)
  | get (s : State) (row col : BitVec 6) (v : Pixel) (h : s.fb.read (s.cellIndex row col) = some v) :
      Done (.get row col) s (s.respond v)
  | scanrd (s : State) (k : BitVec 12) (v : Pixel) (h : s.scanPixel Config.params k.toNat = some v) :
      Done (.scanrd k) s (s.respond v)
  | showFb (s : State) : Done .showFb s s.toStart

/-- Everything a command can do when it answers a next state. -/
theorem exec_next (i : Instr) (s t : State) (h : exec i s = .next t) :
    (checkStatus i s ≠ .ok ∧ t = s.raise (checkStatus i s) 0) ∨ (checkStatus i s = .ok ∧ Done i s t) := by
  by_cases hc : checkStatus i s = .ok
  · refine .inr ⟨hc, ?_⟩
    cases i with
    | init r c v =>
      rw [show exec (.init r c v) s = _ from initAt_ok _ _ _ _ _ hc] at h
      cases h; exact .init _ _ _ _
    | set r c v =>
      rw [show exec (.set r c v) s = _ from setAt_ok _ _ _ _ _ hc] at h
      cases h; exact .set _ _ _ _
    | get r c =>
      rw [show exec (.get r c) s = _ from getAt_ok _ _ _ hc] at h
      obtain ⟨v, hv, rfl⟩ := respondCell_next _ _ _ h
      exact .get _ _ _ v hv
    | scanrd k =>
      rw [show exec (.scanrd k) s = _ from scanrdAt_ok _ _ _ hc] at h
      obtain ⟨v, hv, rfl⟩ := respondCell_next _ _ _ h
      exact .scanrd _ _ v hv
    | showFb =>
      rw [show exec .showFb s = _ from showAt_ok _ hc] at h
      cases h; exact .showFb _
  · rw [exec_error i s hc] at h
    exact .inl ⟨hc, by cases h; rfl⟩

end Sys2Proof.Machine
end

