-- ==== Sys2Proof/Laws/PerInstr.lean ====
section
/-! SUPPORT. The per-instruction family `Mask`: the word of a command is selected by the match and mask of its row of the
opcode map (R42). -/

namespace Sys2Proof.Laws.Mask

/-- The command's row selects its word (R42). -/
def Statement (i : Instr) : Prop :=
  i.row.selects (encode i) = true

theorem init (rows cols : BitVec 6) (fill : BitVec 16) : Statement (.init rows cols fill) := by
  simp only [Statement, OpcodeRow.selects, Instr.row, rowInit, beq_iff_eq]
  apply BitVec.eq_of_toNat_eq
  rw [maskOp_toNat, encode_init_toNat]
  have := rows.isLt; have := cols.isLt; have := fill.isLt
  simp only [BitVec.toNat_ofNat]
  omega

theorem set (row col : BitVec 6) (value : BitVec 16) : Statement (.set row col value) := by
  simp only [Statement, OpcodeRow.selects, Instr.row, rowSet, beq_iff_eq]
  apply BitVec.eq_of_toNat_eq
  rw [maskOp_toNat, encode_set_toNat]
  have := row.isLt; have := col.isLt; have := value.isLt
  simp only [BitVec.toNat_ofNat]
  omega

theorem get (row col : BitVec 6) : Statement (.get row col) := by
  simp only [Statement, OpcodeRow.selects, Instr.row, rowGet, beq_iff_eq]
  apply BitVec.eq_of_toNat_eq
  rw [maskOpValue_toNat, encode_get_toNat]
  have := row.isLt; have := col.isLt
  simp only [BitVec.toNat_ofNat]
  omega

theorem scanrd (k : BitVec 12) : Statement (.scanrd k) := by
  simp only [Statement, OpcodeRow.selects, Instr.row, rowScanrd, beq_iff_eq]
  apply BitVec.eq_of_toNat_eq
  rw [maskOpValue_toNat, encode_scanrd_toNat]
  have := k.isLt
  simp only [BitVec.toNat_ofNat]
  omega

theorem showFb : Statement .showFb := by
  show rowShow.selects (encode .showFb) = true
  decide

end Sys2Proof.Laws.Mask
end

