-- ==== Sys2Proof/Laws/Step.lean ====
section
/-! SUPPORT. What a step can do, said once: the cases of `step`, and those of the sequencer's advance. -/

namespace Sys2Proof.Machine

open Sys2Proof.Config (Params)

/-! ### Answers -/

theorem answer_setClk (i : Signals) (v : Level) :
    i.answer (.setClk v) = some (if i.lineFault then .fault else .ok) := rfl

theorem answer_setData (i : Signals) (v : Level) :
    i.answer (.setData v) = some (if i.lineFault then .fault else .ok) := rfl

theorem answer_delay (i : Signals) (d : Nat) :
    i.answer (.delay d) = if i.dlyDone then some (if i.dlyFault then .fault else .ok) else none := rfl

/-! ### The sequencer -/

theorem enterWord_next (p : Params) (s t : State) (k : BitVec 12) (h : s.enterWord p k = .next t) :
    ∃ v, s.scanPixel p k.toNat = some v ∧ t = s.toWord k (txWord p v) := by
  unfold State.enterWord at h
  split at h
  · next v hv => exact ⟨v, hv, by cases h; rfl⟩
  · cases h

/-- The cases of the advance (R71 to R75). -/
inductive Advanced (p : Params) (s : State) : State → Prop where
  | start (h : s.phase = .start) (h0 : s.sub.toNat = 0) : Advanced p s { s with sub := 1 }
  | firstWord (h : s.phase = .start) (h0 : s.sub.toNat ≠ 0) (v : Pixel) (hv : s.scanPixel p 0 = some v) :
      Advanced p s (s.toWord 0 (txWord p v))
  | inBit (h : s.phase = .word) (h4 : s.sub.toNat < 4) : Advanced p s { s with sub := s.sub + 1 }
  | nextBit (h : s.phase = .word) (h4 : 4 ≤ s.sub.toNat) (hb : 0 < s.bidx.toNat) :
      Advanced p s { s with bidx := s.bidx - 1, sub := 0 }
  | nextWord (h : s.phase = .word) (h4 : 4 ≤ s.sub.toNat) (hb : s.bidx.toNat = 0) (hw : s.widx.toNat + 1 < s.cells)
      (v : Pixel) (hv : s.scanPixel p (s.widx + 1).toNat = some v) :
      Advanced p s (s.toWord (s.widx + 1) (txWord p v))
  | toLatch (h : s.phase = .word) (h4 : 4 ≤ s.sub.toNat) (hb : s.bidx.toNat = 0) (hw : s.cells ≤ s.widx.toNat + 1) :
      Advanced p s s.toLatch
  | inLatch (h : s.phase = .latch) (h5 : s.sub.toNat < 5) : Advanced p s { s with sub := s.sub + 1 }
  | nextPulse (h : s.phase = .latch) (h5 : 5 ≤ s.sub.toNat) (hp : s.pcnt.toNat + 1 < p.latchPulses) :
      Advanced p s { s with pcnt := s.pcnt + 1, sub := 2 }
  | finish (h : s.phase = .latch) (h5 : 5 ≤ s.sub.toNat) (hp : p.latchPulses ≤ s.pcnt.toNat + 1) :
      Advanced p s (s.toIdle.respond 0)

theorem advance_next (p : Params) (s t : State) (h : s.advance p = .next t) : Advanced p s t := by
  unfold State.advance at h
  split at h
  · cases h
  · next hp =>
    split at h
    · next h0 => cases h; exact .start hp h0
    · next h0 =>
      obtain ⟨v, hv, rfl⟩ := enterWord_next _ _ _ _ h
      exact .firstWord hp h0 v hv
  · next hp =>
    split at h
    · next h4 => cases h; exact .inBit hp h4
    · next h4 =>
      unfold State.endBit at h
      split at h
      · next hb => cases h; exact .nextBit hp (by omega) hb
      · next hb =>
        split at h
        · next hw =>
          obtain ⟨v, hv, rfl⟩ := enterWord_next _ _ _ _ h
          exact .nextWord hp (by omega) (by omega) hw v hv
        · next hw => cases h; exact .toLatch hp (by omega) (by omega) (by omega)
  · next hp =>
    split at h
    · next h5 => cases h; exact .inLatch hp h5
    · next h5 =>
      unfold State.endPulse at h
      split at h
      · next hl => cases h; exact .nextPulse hp (by omega) hl
      · next hl => cases h; exact .finish hp (by omega) (by omega)

/-- The cases of a sequencer step. -/
theorem sequence_next (p : Params) (s t : State) (i : Signals) (h : s.sequence p i = .next t) :
    ∃ o, s.currentOp p = some o ∧
      ((i.answer o = none ∧ t = { s with op := some o }) ∨
       (i.answer o = some .ok ∧ Advanced p (s.perform o .ok) t) ∨
       (i.answer o = some .fault ∧ t = (s.perform o .fault).abort o)) := by
  unfold State.sequence at h
  split at h
  · cases h
  · next o ho =>
    refine ⟨o, ho, ?_⟩
    split at h
    · next ha => exact .inl ⟨ha, by cases h; rfl⟩
    · next ha => exact .inr (.inl ⟨ha, advance_next _ _ _ h⟩)
    · next ha => exact .inr (.inr ⟨ha, by cases h; rfl⟩)

/-! ### The step -/

theorem step_nil (s : State) (h : s.inputs = []) : step s = .next s := by
  simp [step, State.cycle, h]

theorem step_reset (s : State) (i : Signals) (rest : List Signals) (h : s.inputs = i :: rest) (hr : i.rst = true) :
    step s = .next (State.afterReset rest) := by
  simp [step, State.cycle, h, State.react, hr]

theorem step_idle (s : State) (i : Signals) (rest : List Signals) (h : s.inputs = i :: rest) (hr : i.rst = false)
    (hp : s.phase = .idle) : step s = s.listen i rest := by
  simp [step, State.cycle, h, State.react, hr, hp]

theorem step_busy (s : State) (i : Signals) (rest : List Signals) (h : s.inputs = i :: rest) (hr : i.rst = false)
    (hp : s.phase ≠ .idle) : step s = (s.beginStep rest).sequence Config.params i := by
  simp only [step, State.cycle, h, State.react, hr]
  cases hs : s.phase <;> simp_all

/-- Everything a step that answers a next state can do. -/
inductive Stepped (s t : State) : Prop where
  | still (h : s.inputs = []) (ht : t = s)
  | reset (i : Signals) (rest : List Signals) (h : s.inputs = i :: rest) (hr : i.rst = true)
      (ht : t = State.afterReset rest)
  | waits (i : Signals) (rest : List Signals) (h : s.inputs = i :: rest) (hr : i.rst = false) (hp : s.phase = .idle)
      (hc : i.cmd = none) (ht : t = s.beginStep rest)
  | illegal (i : Signals) (rest : List Signals) (c : CmdWord) (e : IllegalWord) (h : s.inputs = i :: rest)
      (hr : i.rst = false) (hp : s.phase = .idle) (hc : i.cmd = some c) (hd : decode c = .error e)
      (ht : t = (s.accept rest).raise .illegalCommand 0)
  | command (i : Signals) (rest : List Signals) (c : CmdWord) (instr : Instr) (h : s.inputs = i :: rest)
      (hr : i.rst = false) (hp : s.phase = .idle) (hc : i.cmd = some c) (hd : decode c = .ok instr)
      (ht : exec instr (s.accept rest) = .next t)
  | sequenced (i : Signals) (rest : List Signals) (h : s.inputs = i :: rest) (hr : i.rst = false)
      (hp : s.phase ≠ .idle) (ht : (s.beginStep rest).sequence Config.params i = .next t)

theorem step_next (s t : State) (h : step s = .next t) : Stepped s t := by
  match hi : s.inputs with
  | [] => rw [step_nil s hi] at h; cases h; exact .still hi rfl
  | i :: rest =>
    by_cases hr : i.rst = true
    · rw [step_reset s i rest hi hr] at h; cases h; exact .reset i rest hi hr rfl
    · have hr : i.rst = false := by simpa using hr
      by_cases hp : s.phase = .idle
      · rw [step_idle s i rest hi hr hp] at h
        unfold State.listen at h
        split at h
        · next hc => cases h; exact .waits i rest hi hr hp hc rfl
        · next c hc =>
          unfold State.execute at h
          split at h
          · next e hd => cases h; exact .illegal i rest c e hi hr hp hc hd rfl
          · next instr hd => exact .command i rest c instr hi hr hp hc hd h
      · rw [step_busy s i rest hi hr hp] at h
        exact .sequenced i rest hi hr hp h

end Sys2Proof.Machine
end

