-- ==== Sys2Proof/Tests/Slice0.lean ====
section
/-! SUPPORT. The model's own tests. Every expected value comes from spec/: the vectors of 95_test_vectors.md, the worked
examples of the rules, or a word written out from the encodings of 30_encoding.md. The second half shows, for each statement
with hypotheses, a state and operands that meet them. -/

namespace Sys2Proof.Tests

open Sys2Proof.Machine
open Sys2Proof.Config (Params defaultParams)

/-- A 2 by 2 grid with the pixels of V-F6. -/
def grid22 : State :=
  { State.reset with cfg := true, rows := 2, cols := 2, fb := [(0, 1), (1, 0x80), (2, 0x3C), (3, 0xFF)] }

/-- A 1 by 1 grid with the pixel of V-S1. -/
def grid11 : State :=
  { State.reset with cfg := true, rows := 1, cols := 1, fb := [(0, 0xA5)] }

/-- An 8 by 8 grid's dimensions, one cell written, for the bounds of V-F4. -/
def grid88 : State :=
  { State.reset with cfg := true, rows := 8, cols := 8, fb := [(63, 0xFF)] }

/-- Every operation answered `ok`. -/
def okSignals : Signals := { rst := false, cmd := none, lineFault := false, dlyDone := true, dlyFault := false }

/-- Every operation answered `fault`. -/
def badSignals : Signals := { rst := false, cmd := none, lineFault := true, dlyDone := true, dlyFault := true }

/-- Reset asserted. -/
def rstSignals : Signals := { rst := true, cmd := none, lineFault := true, dlyDone := true, dlyFault := true }

/-- The next state's reading, if there is a next state. -/
def after {α : Type} (o : Outcome) (f : State → α) : Option α :=
  match o with
  | .next t => some (f t)
  | .fault _ => none
  | .refused _ => none

/-! ### Decoding (V-E1, V-E2) -/

theorem test_decode_init : decode 0b00010010000010000000000011111111#32 = .ok (.init 8 8 255) := by decide
theorem test_decode_set : decode 0b00100000010000100000000010100101#32 = .ok (.set 1 2 0xA5) := by decide
theorem test_decode_set_all_ones : decode 0b00101111111111111111111111111111#32 = .ok (.set 63 63 65535) := by decide
theorem test_decode_get : decode 0b00110001110001110000000000000000#32 = .ok (.get 7 7) := by decide
theorem test_decode_scanrd : decode 0b01001111111111110000000000000000#32 = .ok (.scanrd 4095) := by decide
theorem test_decode_show : decode 0b01010000000000000000000000000000#32 = .ok .showFb := by decide
theorem test_decode_zero : decode 0x00000000#32 = .error (.reservedOpcode 0) := by decide
theorem test_decode_ones : decode 0xFFFFFFFF#32 = .error (.reservedOpcode 15) := by decide
theorem test_decode_op6 : decode 0x60000000#32 = .error (.reservedOpcode 6) := by decide
theorem test_decode_get_value : decode 0x3249FFFF#32 = .error (.reservedFieldNotZero 3) := by decide
theorem test_decode_scanrd_value : decode 0x400A0001#32 = .error (.reservedFieldNotZero 4) := by decide
theorem test_decode_show_fields :
    decode 0x50000001#32 = .error (.reservedFieldNotZero 5) ∧ decode 0x50010000#32 = .error (.reservedFieldNotZero 5) ∧
    decode 0x58000000#32 = .error (.reservedFieldNotZero 5) := by decide
theorem test_encode_words :
    encode (.init 8 8 0) = 0x12080000#32 ∧ encode (.set 1 2 0xA5) = 0x204200A5#32 ∧ encode (.get 1 2) = 0x30420000#32 ∧
    encode (.scanrd 10) = 0x400A0000#32 ∧ encode .showFb = 0x50000000#32 := by decide
/-- No two rows of the opcode map select a common word (R42). -/
theorem test_opcode_rows_disjoint :
    opcodeMap.Pairwise (fun a b => a.pattern &&& (a.mask &&& b.mask) ≠ b.pattern &&& (a.mask &&& b.mask)) := by decide
theorem test_table_word : decodeTableWord 32 0x204200A5 = some (.set 1 2 0xA5) := by decide

/-! ### Response and transmission words (V-E3, V-E4) -/

theorem test_response_words :
    (Response.mk .ok 0xA5).toWord = 0x000000A5#32 ∧ (Response.mk .hardwareFault 3).toWord = 0x00040003#32 ∧
    (Response.mk .illegalCommand 0).toWord = 0x00070000#32 := by decide
theorem test_tx_words :
    txWord defaultParams 0xA5 = 0x00A5#16 ∧ txWord { defaultParams with hdr := 0x12 } 0xA5 = 0x12A5#16 ∧
    txWord { defaultParams with w := 12, maxIntensity := 4095 } 0xABC = 0x0ABC#16 := by decide

/-! ### The frame-buffer commands (V-F1 to V-F7) -/

theorem test_init_builds :
    after (exec (.init 2 2 7) State.reset) (fun t => (t.cfg, t.fb.read 3, t.fb.read 4, t.rsp)) =
      some (true, some 7, none, some ⟨.ok, 0⟩) := by decide
theorem test_init_dimensions_before_fill :
    after (exec (.init 0 0 999) State.reset) (fun t => (t.cfg, t.rsp)) = some (false, some ⟨.invalidDimensions, 0⟩) := by
  decide
theorem test_set_one_past_the_edge :
    after (exec (.set 0 2 1) grid22) (fun t => (t.fb, t.rsp)) = some (grid22.fb, some ⟨.outOfBounds, 0⟩) := by decide
theorem test_set_writes :
    after (exec (.set 1 0 9) grid22) (fun t => (t.fb, t.rsp)) =
      some ([(0, 1), (1, 0x80), (2, 9), (3, 0xFF)], some ⟨.ok, 0⟩) := by decide
theorem test_get_reads : after (exec (.get 1 0) grid22) (fun t => t.rspWord) = some (some 0x0000003C#32) := by decide
theorem test_get_bounds : after (exec (.get 2 2) grid22) (fun t => t.rsp) = some (some ⟨.outOfBounds, 0⟩) := by decide
theorem test_scanrd_last : after (exec (.scanrd 3) grid22) (fun t => t.rsp) = some (some ⟨.ok, 0xFF⟩) := by decide
theorem test_scanrd_past : after (exec (.scanrd 4) grid22) (fun t => t.rsp) = some (some ⟨.outOfBounds, 0⟩) := by decide
/-- V-F6 with the serpentine scan. -/
theorem test_scanrd_serpentine :
    after (scanrdAt { defaultParams with scan := Config.scanSerpentine } 2 grid22) (fun t => t.rsp) =
      some (some ⟨.ok, 0xFF⟩) := by decide
theorem test_show_starts :
    after (exec .showFb grid22) (fun t => (t.phase, t.sub, t.rsp)) = some (.start, 0, none) := by decide
theorem test_show_not_configured :
    after (exec .showFb State.reset) (fun t => (t.phase, t.rsp)) = some (.idle, some ⟨.notConfigured, 0⟩) := by decide

/-! ### The step, the sequencer and reset (V-S4, V-S8, V-R2) -/

theorem test_fetch_runs_first :
    after (step (State.reset.withFetchWord 32 0x12080000)) (fun t => (t.cfg, t.rows, t.rspWord)) =
      some (true, 8, some 0#32) := by decide
theorem test_illegal_word :
    after (step (grid22.withFetchWord 32 0x30000001)) (fun t => (t.fb, t.rspWord)) =
      some (grid22.fb, some 0x00070000#32) := by decide
/-- V-S8, from `j = 81` to `j = 82`. -/
theorem test_next_word :
    after (step { grid22 with phase := .word, bidx := 0, sub := 4, word := 1, inputs := [okSignals] })
      (fun t => (t.phase, t.widx, t.bidx, t.sub, t.word)) = some (.word, 1, 15, 0, 0x0080) := by decide
/-- V-S8, from `j = 321` to `j = 322`. -/
theorem test_last_word_to_latch :
    after (step { grid22 with phase := .word, widx := 3, bidx := 0, sub := 4, word := 0xFF, inputs := [okSignals] })
      (fun t => (t.phase, t.widx, t.sub, t.word)) = some (.latch, 0, 0, 0) := by decide
/-- V-S8, from `j = 327` to `j = 328`. -/
theorem test_next_pulse :
    after (step { grid22 with phase := .latch, sub := 5, inputs := [okSignals] }) (fun t => (t.phase, t.sub, t.pcnt)) =
      some (.latch, 2, 1) := by decide
/-- V-S8, after `j = 339`. -/
theorem test_show_ends :
    after (step { grid22 with phase := .latch, sub := 5, pcnt := 3, inputs := [okSignals] })
      (fun t => (t.phase, t.sub, t.pcnt, t.rsp)) = some (.idle, 0, 0, some ⟨.ok, 0⟩) := by decide
/-- V-S4, `j = 4`. -/
theorem test_clock_fault :
    after (step { grid11 with phase := .word, bidx := 15, sub := 2, word := 0xA5, inputs := [badSignals] })
      (fun t => (t.clk, t.data, t.phase, t.rspWord)) = some (.X, .L, .idle, some 0x00040001#32) := by decide
/-- V-S4, `j = 5`: a delay fault leaves the clock high. -/
theorem test_delay_fault :
    after (step { grid11 with phase := .word, bidx := 15, sub := 3, word := 0xA5, clk := .H, clkO := .H, inputs := [badSignals] })
      (fun t => (t.clk, t.phase, t.rspWord)) = some (.H, .idle, some 0x00040003#32) := by decide
/-- V-R2: reset while a delay is pending and the clock is high. -/
theorem test_reset_in_show :
    after (step { grid11 with phase := .word, bidx := 15, sub := 3, word := 0xA5, clk := .H, clkO := .H, inputs := [rstSignals] })
      (fun t => (t.clk, t.clkO, t.cfg, t.phase, t.rsp)) = some (.L, .L, false, .idle, none) := by decide

/-! ### Notation (R51, R52) -/

theorem test_parse_set : parseLine "SET 1, 2, 0xA5" = some (.command (.set 1 2 0xA5)) := by decide
theorem test_parse_rejects : parseLine "SET 64, 0, 1" = none := by decide
theorem test_clear_is_row_major :
    expandLine 2 2 (.clear 7) = [.set 0 0 7, .set 0 1 7, .set 1 0 7, .set 1 1 7] := by decide

/-! ### Well-formedness: an ill-formed configuration for each check (R5, R6). A command has no check to fail: each operand has
its field's type. -/

theorem test_limits_refused :
    Params.limitsOk { defaultParams with maxRows := 0 } = false ∧ Params.limitsOk { defaultParams with maxRows := 64 } = false ∧
    Params.limitsOk { defaultParams with maxCols := 0 } = false ∧ Params.limitsOk { defaultParams with maxCols := 64 } = false := by
  decide
theorem test_width_refused :
    Params.widthOk { defaultParams with w := 0 } = false ∧ Params.widthOk { defaultParams with w := 16 } = false := by decide
theorem test_intensity_refused : Params.intensityOk { defaultParams with maxIntensity := 256 } = false := by decide
theorem test_header_refused : Params.headerOk { defaultParams with hdr := 256 } = false := by decide
theorem test_pulses_refused :
    Params.pulsesOk { defaultParams with latchPulses := 0 } = false ∧
    Params.pulsesOk { defaultParams with latchPulses := 256 } = false := by decide
theorem test_times_refused : Params.timesOk { defaultParams with tLatchWait := 65536 } = false := by decide
theorem test_scan_refused : ¬ Config.ScanBijective (fun _ => 0) 2 := by decide
theorem test_instr_well_formed : (Instr.set 63 63 65535).wellFormed = true := by decide

/-! ### Witnesses: states and operands that meet the statements' hypotheses -/

/-- A state that holds the 1 by 1 grid meets R25.2, whatever is still to come. -/
theorem configured_of_grid11 (p : Params) (s : State) (hr : s.rows = 1) (hc : s.cols = 1) (hf : s.fb = [(0, 0xA5)])
    (h1 : 1 ≤ p.maxRows) (h2 : 1 ≤ p.maxCols) (h3 : 165 ≤ p.maxIntensity) : InvConfigured p s := by
  have hcells : s.cells = 1 := by simp [State.cells, hr, hc]
  intro _
  rw [hr, hc, hcells, hf]
  refine ⟨⟨by decide, h1⟩, ⟨by decide, h2⟩, ?_, ?_⟩
  · intro i hi
    obtain rfl : i = 0 := by omega
    exact ⟨0xA5, rfl, h3⟩
  · intro i hi
    have h0 : i ≠ 0 := by omega
    simp [Memory.read, h0]

/-- The 1 by 1 grid in Idle meets the invariants, whatever is still to come. -/
theorem witness_invariants (ins : List Signals) :
    EncoderInv Config.params { grid11 with inputs := ins } ∧ ({ grid11 with inputs := ins } : State).phase = .idle := by
  refine ⟨⟨List.pairwise_singleton _ _, fun h => Bool.noConfusion h, ?_, ⟨rfl, rfl, rfl, rfl, rfl⟩, ⟨.inr rfl, .inr rfl⟩⟩, rfl⟩
  exact configured_of_grid11 _ _ rfl rfl rfl (by decide) (by decide) (by decide)

/-- The 1 by 1 grid in the middle of a SHOW meets the invariants. -/
theorem witness_invariants_busy :
    EncoderInv Config.params { grid11 with phase := .word, bidx := 15, sub := 4, word := 0xA5, inputs := [okSignals] } := by
  refine ⟨List.pairwise_singleton _ _, fun h => Bool.noConfusion h, ?_, ⟨by decide, by decide, rfl, by decide⟩, ⟨.inr rfl, .inr rfl⟩⟩
  exact configured_of_grid11 _ _ rfl rfl rfl (by decide) (by decide) (by decide)

theorem witness_legal_word : decode 0x204200A5#32 = .ok (.set 1 2 0xA5) ∧ decode 0x10820007#32 = .ok (.init 2 2 7) ∧
    decode 0x31C70000#32 = .ok (.get 7 7) ∧ decode 0x4FFF0000#32 = .ok (.scanrd 4095) := by decide

theorem witness_illegal_word_accepted :
    ({ grid22 with inputs := [.offer 0#32] } : State).inputs = .offer 0#32 :: [] ∧ (Signals.offer 0#32).rst = false ∧
    grid22.phase = .idle ∧ (Signals.offer 0#32).cmd = some 0#32 ∧ decode 0#32 = .error (.reservedOpcode 0) := by decide

theorem witness_command_accepted :
    ({ grid22 with inputs := [.offer 0x50000000#32] } : State).inputs = .offer 0x50000000#32 :: [] ∧
    (Signals.offer 0x50000000#32).rst = false ∧ grid22.phase = .idle ∧
    (Signals.offer 0x50000000#32).cmd = some 0x50000000#32 ∧ decode 0x50000000#32 = .ok .showFb := by decide

theorem witness_table_word : decodeTableWord 32 0x50000000 = some .showFb := by decide

theorem witness_idle_without_command :
    ({ grid22 with inputs := [okSignals] } : State).inputs = okSignals :: [] ∧ okSignals.rst = false ∧
    grid22.phase = .idle ∧ okSignals.cmd = none ∧ State.reset.inputs = [] := by decide

theorem witness_busy : ({ grid22 with phase := .latch } : State).phase ≠ .idle := by decide

theorem witness_reset_asserted :
    ({ grid22 with inputs := [rstSignals] } : State).inputs = rstSignals :: [] ∧ rstSignals.rst = true ∧
    okSignals.rst = false := by decide

/-- A step in Idle with no command, one with a command, and one of a SHOW, each with a next state. -/
theorem witness_steps :
    (after (step { grid22 with inputs := [okSignals] }) State.phase).isSome = true ∧
    (after (step { grid22 with inputs := [.offer 0x50000000#32] }) State.phase).isSome = true ∧
    (after (step { grid22 with phase := .start, inputs := [okSignals] }) State.phase).isSome = true ∧
    (Signals.offer 0x50000000#32).cmd ≠ none := by decide

/-- Each clause of INIT's statement at a boundary: configured; a dimension of 0 and one past the limit; the largest legal
dimensions with a fill one past the domain, and with the largest fill. -/
theorem witness_init_clauses :
    grid22.cfg = true ∧ State.reset.cfg = false ∧ (0 : BitVec 6).toNat = 0 ∧
    Config.params.maxRows < (9 : BitVec 6).toNat ∧ Config.params.maxCols < (9 : BitVec 6).toNat ∧
    1 ≤ (8 : BitVec 6).toNat ∧ (8 : BitVec 6).toNat ≤ Config.params.maxRows ∧
    (8 : BitVec 6).toNat ≤ Config.params.maxCols ∧ Config.params.maxIntensity < (256 : BitVec 16).toNat ∧
    (255 : BitVec 16).toNat ≤ Config.params.maxIntensity := by decide

/-- Each clause of SET's and GET's statements at a boundary: not configured; one past each edge; the last pair with a value
one past the domain, and with the largest value. -/
theorem witness_set_get_clauses :
    State.reset.cfg = false ∧ grid22.cfg = true ∧ grid22.rows.toNat ≤ (2 : BitVec 6).toNat ∧
    grid22.cols.toNat ≤ (2 : BitVec 6).toNat ∧ (1 : BitVec 6).toNat < grid22.rows.toNat ∧
    (1 : BitVec 6).toNat < grid22.cols.toNat ∧ Config.params.maxIntensity < (256 : BitVec 16).toNat ∧
    (255 : BitVec 16).toNat ≤ Config.params.maxIntensity ∧ grid22.fb.wf ∧
    (0x30000001#32).toNat / 2 ^ 28 = 3 ∧ (0x30000001#32).toNat % 2 ^ 16 ≠ 0 ∧
    grid22.fb.read ((1 : BitVec 6).toNat * grid22.cols.toNat + (1 : BitVec 6).toNat) = some 255 := by decide

theorem witness_scanrd_clauses :
    State.reset.cfg = false ∧ grid22.cfg = true ∧ grid22.rows.toNat * grid22.cols.toNat ≤ (4 : BitVec 12).toNat ∧
    (3 : BitVec 12).toNat < grid22.rows.toNat * grid22.cols.toNat ∧
    (0x40000001#32).toNat / 2 ^ 28 = 4 ∧ (0x40000001#32).toNat % 2 ^ 16 ≠ 0 ∧
    grid22.fb.read (Config.params.scan grid22.rows.toNat grid22.cols.toNat (3 : BitVec 12).toNat) = some 255 := by decide

/-- A state no run reaches: configured, with a cell that holds no value. -/
theorem witness_cell_without_value :
    grid88.cfg = true ∧ (0 : BitVec 6).toNat < grid88.rows.toNat ∧ (0 : BitVec 6).toNat < grid88.cols.toNat ∧
    grid88.fb.read ((0 : BitVec 6).toNat * grid88.cols.toNat + (0 : BitVec 6).toNat) = none ∧
    (0 : BitVec 12).toNat < grid88.rows.toNat * grid88.cols.toNat ∧
    grid88.fb.read (Config.params.scan grid88.rows.toNat grid88.cols.toNat (0 : BitVec 12).toNat) = none := by decide

theorem witness_error :
    grid22.rsp = none ∧
    after (exec (.get 2 2) grid22) (fun t => t.rsp) = some (some ⟨.outOfBounds, 0⟩) ∧ Status.outOfBounds ≠ .ok := by decide

theorem witness_frame_buffer_command :
    Instr.set 1 1 9 ≠ .showFb ∧ (after (exec (.set 1 1 9) grid22) State.phase).isSome = true := by decide

theorem witness_complaints :
    configurationWrong grid22 (.init 0 0 999) ∧ configurationWrong State.reset (.set 0 0 1) ∧
    (¬ configurationWrong State.reset (.init 0 0 999) ∧ addressWrong Config.params State.reset (.init 0 0 999)) ∧
    (¬ configurationWrong grid88 (.set 8 0 256) ∧ addressWrong Config.params grid88 (.set 8 0 256)) ∧
    (¬ configurationWrong grid88 (.set 7 7 256) ∧ ¬ addressWrong Config.params grid88 (.set 7 7 256) ∧
      valueWrong Config.params (.set 7 7 256)) := by
  simp [configurationWrong, addressWrong, valueWrong, grid22, grid88, State.reset, Config.params, defaultParams]

theorem witness_pairs :
    grid22.inBounds 1 1 = true ∧ grid22.inBounds 0 1 = true ∧ grid22.cellIndex 1 1 = 3 ∧
    3 < grid22.rows.toNat * grid22.cols.toNat := by decide

theorem witness_set_then_get :
    after (exec (.set 1 1 9) grid22) (fun t => t.rsp) = some (some ⟨.ok, 0⟩) ∧
    ((0 : BitVec 6), (1 : BitVec 6)) ≠ (1, 1) ∧
    exec (.get 0 1) grid22 = .next { grid22 with rsp := some ⟨.ok, 0x80⟩ } ∧
    after (exec (.init 2 2 7) State.reset) (fun t => t.rsp) = some (some ⟨.ok, 0⟩) ∧
    (1 : BitVec 6).toNat < (2 : BitVec 6).toNat := by
  refine ⟨by decide, by decide, rfl, by decide, by decide⟩

theorem witness_scan_sequence :
    grid22.cfg = true ∧ grid22.scanSeq Config.params = some [1, 0x80, 0x3C, 0xFF] ∧
    [(1 : Pixel), 0x80, 0x3C, 0xFF][(3 : BitVec 12).toNat]? = some 0xFF := by decide

/-- A whole admissible configuration that is not the default. -/
theorem witness_admissible_other : Params.Admissible { defaultParams with hdr := 0x12 } := by
  constructor <;> try decide
  intro _ _ _ _ _ _
  exact ⟨fun _ h => h, fun _ _ _ _ h => h, fun i h => ⟨i, h, rfl⟩⟩

/-- The invariants hold with that configuration in a SHOW of the 1 by 1 grid, and in Idle. -/
theorem witness_invariants_other :
    EncoderInv { defaultParams with hdr := 0x12 } { grid11 with phase := .word, bidx := 15, sub := 4, word := 0x12A5 } ∧
    EncoderInv { defaultParams with hdr := 0x12 } grid11 ∧ grid11.cfg = true := by
  refine ⟨⟨List.pairwise_singleton _ _, fun h => Bool.noConfusion h, ?_, ⟨by decide, by decide, rfl, by decide⟩,
    ⟨.inr rfl, .inr rfl⟩⟩, ⟨List.pairwise_singleton _ _, fun h => Bool.noConfusion h, ?_, ⟨rfl, rfl, rfl, rfl, rfl⟩,
    ⟨.inr rfl, .inr rfl⟩⟩, rfl⟩ <;>
  exact configured_of_grid11 _ _ rfl rfl rfl (by decide) (by decide) (by decide)

theorem witness_transmission_values :
    (255 : Pixel).toNat ≤ Config.params.maxIntensity ∧ (255 : Pixel).toNat < 2 ^ Config.params.w ∧
    txWord Config.params 255 = txWord Config.params 255 := by decide

theorem witness_rising_edges :
    (showOps Config.params [0xA5])[4]? = some (.setClk .H) ∧ (showOps Config.params [0xA5])[9]? = some (.setClk .H) ∧
    (∀ m, 4 < m → m < 9 → (showOps Config.params [0xA5])[m]? ≠ some (.setClk .H)) := by
  refine ⟨by decide, by decide, ?_⟩
  intro m h1 h2
  interval_cases m <;> decide

theorem witness_intensity_bit : Config.params.maxIntensity.testBit 7 = true ∧ 7 < Config.params.w ∧
    Config.params.hdr = 0 := by decide

theorem witness_show_clauses : grid22.cfg = true ∧ State.reset.cfg = false := by decide

theorem witness_start_phase :
    okSignals.rst = false ∧ okSignals.lineFault = false ∧ ({ grid22 with phase := .start } : State).phase = .start ∧
    ({ grid22 with phase := .start } : State).sub = 0 ∧ ({ grid22 with phase := .start, sub := 1 } : State).sub = 1 ∧
    grid22.fb.read (Config.params.scan grid22.rows.toNat grid22.cols.toNat 0) = some 1 := by decide

theorem witness_word_phase :
    okSignals.rst = false ∧ okSignals.lineFault = false ∧ okSignals.dlyDone = true ∧ okSignals.dlyFault = false ∧
    (∀ k ∈ [(0 : BitVec 3), 1, 2, 3], ({ grid22 with phase := .word, sub := k } : State).sub = k) := by decide

theorem witness_end_of_a_bit :
    0 < (1 : BitVec 4).toNat ∧ ((2 : BitVec 12).toNat + 1 < grid22.rows.toNat * grid22.cols.toNat) ∧
    grid22.fb.read (Config.params.scan grid22.rows.toNat grid22.cols.toNat ((2 : BitVec 12).toNat + 1)) = some 0xFF ∧
    grid22.rows.toNat * grid22.cols.toNat ≤ (3 : BitVec 12).toNat + 1 ∧ okSignals.lineFault = false := by decide

theorem witness_latch_phase :
    (∀ k ∈ [(0 : BitVec 3), 1, 2, 3, 4], ({ grid22 with phase := .latch, sub := k } : State).sub = k) ∧
    okSignals.rst = false ∧ okSignals.lineFault = false ∧ okSignals.dlyDone = true ∧ okSignals.dlyFault = false := by decide

theorem witness_end_of_a_pulse :
    (2 : BitVec 8).toNat + 1 < Config.params.latchPulses ∧ Config.params.latchPulses ≤ (3 : BitVec 8).toNat + 1 := by decide

theorem witness_faulted_operations :
    badSignals.rst = false ∧
    ({ grid11 with phase := .start } : State).currentOp Config.params = some (.setClk .L) ∧
    badSignals.answer (.setClk .L) = some .fault ∧
    ({ grid11 with phase := .start, sub := 1 } : State).currentOp Config.params = some (.setData .L) ∧
    badSignals.answer (.setData .L) = some .fault ∧
    ({ grid11 with phase := .latch, sub := 1 } : State).currentOp Config.params = some (.delay 220) ∧
    badSignals.answer (.delay 220) = some .fault := by decide

theorem witness_ports :
    (Signals.offer 0#32).rst = false ∧ (Signals.offer 0#32).dlyDone = false ∧
    ({ grid11 with phase := .latch, sub := 1 } : State).currentOp Config.params = some (.delay 220) ∧
    (after (step { grid11 with phase := .latch, sub := 1, inputs := [.offer 0#32] }) State.phase).isSome = true ∧
    ({ grid11 with phase := .start } : State).currentOp Config.params = some (.setClk .L) ∧
    (after (step { grid11 with phase := .start, inputs := [okSignals] }) State.phase).isSome = true := by decide

/-- A position in a SHOW under the invariants, its operation and an answer `ok` with a next state. -/
theorem witness_positions :
    let p : Params := { defaultParams with hdr := 0x12 }
    let s : State := { grid11 with phase := .word, bidx := 15, sub := 4, word := 0x12A5 }
    s.phase ≠ .idle ∧ s.scanSeq p = some [0xA5] ∧ s.currentOp p = some (.setClk .L) ∧
    okSignals.answer (.setClk .L) = some .ok ∧ (after (s.sequence p okSignals) State.phase).isSome = true := by decide

/-- A SHOW whose signals answer every operation `ok`, and one with no signals yet. -/
theorem witness_whole_show :
    (∀ i ∈ ({ grid11 with inputs := List.replicate 100 okSignals } : State).inputs, i.rst = false) ∧
    (transmitWhole Config.params { grid11 with inputs := List.replicate 100 okSignals }).isSome = true ∧
    transmitWhole Config.params grid11 = none := by
  refine ⟨?_, by decide, by decide⟩
  intro i hi
  rw [List.eq_of_mem_replicate hi]
  rfl

theorem witness_successful_show :
    grid11.cfg = true ∧ grid11.scanSeq Config.params = some [0xA5] ∧
    (∀ i ∈ List.replicate 100 okSignals, i.allOk = true) ∧ (∀ i ∈ List.replicate 100 okSignals, i.answersAll = true) ∧
    (List.replicate 100 okSignals).length =
      4 + 80 * (grid11.rows.toNat * grid11.cols.toNat) + 4 * Config.params.latchPulses := by
  refine ⟨rfl, rfl, ?_, ?_, rfl⟩ <;> intro i hi <;> rw [List.eq_of_mem_replicate hi] <;> rfl

/-- V-S4, `j = 99`: the last operation of the SHOW faults. -/
theorem witness_faulted_show :
    (∀ i ∈ List.replicate 99 okSignals, i.allOk = true) ∧ badSignals.rst = false ∧
    (showOps Config.params [0xA5])[(List.replicate 99 okSignals).length]? = some (.delay 1) ∧
    badSignals.answer (.delay 1) = some .fault := by
  refine ⟨?_, rfl, by decide, rfl⟩
  intro i hi
  rw [List.eq_of_mem_replicate hi]
  rfl

/-- Two states that differ in the line registers only. -/
theorem witness_agree : AgreeButLines { grid11 with clk := .X, inputs := [okSignals] } { grid11 with inputs := [okSignals] } ∧
    (after (step { grid11 with clk := .X, inputs := [okSignals] }) State.phase).isSome = true ∧
    ({ grid11 with clk := .X, inputs := [okSignals] } : State).inputs ≠ [] := by
  refine ⟨?_, by decide, by decide⟩
  constructor <;> rfl

theorem witness_run : (after (Sys2Proof.core.run 1 { grid11 with inputs := [okSignals] }) State.phase).isSome = true := by
  decide

theorem witness_canonical : grid22.fb.wf ∧ (after (step { grid22 with inputs := [okSignals] }) State.phase).isSome = true := by
  decide

/-- A step that clears `CFG` and one that sets it. -/
theorem witness_cfg_changes :
    after (step { grid22 with inputs := [rstSignals] }) State.cfg = some false ∧ grid22.cfg = true ∧
    after (step { State.reset with inputs := [.offer 0x10820000#32] }) State.cfg = some true ∧
    State.reset.cfg = false ∧ after (step { grid22 with inputs := [okSignals] }) State.cfg = some true := by decide

/-- A step that changes the clock and one that changes the data line. -/
theorem witness_line_changes :
    after (step { grid11 with phase := .word, bidx := 15, sub := 2, word := 0xA5, inputs := [okSignals] }) State.clk =
      some .H ∧ grid11.clk ≠ .H ∧
    after (step { grid11 with phase := .latch, sub := 2, inputs := [okSignals] }) State.data = some .H ∧
    grid11.data ≠ .H := by decide

theorem witness_clear :
    (255 : BitVec 16).toNat ≤ Config.params.maxIntensity ∧
    ({ grid11 with inputs := offerAll (clearCommands 1 1 255) } : State).inputs =
      offerAll (clearCommands grid11.rows.toNat grid11.cols.toNat 255) ++ [] := by decide

theorem witness_scan_all :
    ({ grid11 with inputs := offerAll (scanAllCommands 1) } : State).inputs =
      offerAll (scanAllCommands (grid11.rows.toNat * grid11.cols.toNat)) ++ [] ∧
    [(0xA5 : Pixel)][0]? = some 0xA5 := by decide

end Sys2Proof.Tests
end

/-! Proofs for 00_scope.md: the constraints of R5 and R6 on the default configuration. -/
namespace Sys2Proof.Config

@[simp] theorem scanRowMajor_apply (rows cols k : Nat) : scanRowMajor rows cols k = k := rfl

/-- The row-major order sends cell `k` as the `k`-th pixel (R33), so it permutes the cells of any grid. -/
theorem scanRowMajor_bijective (rows cols n : Nat) : ScanBijective (scanRowMajor rows cols) n := by
  refine ⟨fun k hk => ?range, fun k _ j _ hkj => ?injective, fun i hi => ⟨i, hi, ?surjective⟩⟩
  case range => simpa using hk
  case injective => simpa using hkj
  case surjective => simp

theorem Params.scanOk_of_scanRowMajor {p : Params} (h : p.scan = scanRowMajor) : p.ScanOk := by
  intro rows cols _ _ _ _
  rw [h]
  exact scanRowMajor_bijective rows cols (rows * cols)

/-- Settles O58: the numeric constraints are evaluated at the defaults, and the default `SCAN` is row-major. -/
theorem defaultConfigurationIsAdmissible : Obligations.DefaultConfigurationIsAdmissible where
  limits := by decide
  width := by decide
  intensity := by decide
  header := by decide
  pulses := by decide
  times := by decide
  scan := Params.scanOk_of_scanRowMajor rfl

end Sys2Proof.Config

/-! Proofs for 10_state.md: what a step can do to the registers of INIT and SET (R14 to R16), and reset (R24). -/
namespace Sys2Proof.Machine

open Sys2Proof.Config (Params)

/-! ### The frame buffer and its configuration -/

/-- `CFG`, `ROWS`, `COLS` and `FB` are the same in two states (R25.6). -/
structure SameFrame (s t : State) : Prop where
  cfg : t.cfg = s.cfg
  rows : t.rows = s.rows
  cols : t.cols = s.cols
  fb : t.fb = s.fb

/-- The advance of the sequencer writes none of the frame's registers (R71 to R75). -/
theorem Advanced.sameFrame {p : Params} {s t : State} (h : Advanced p s t) : SameFrame s t := by
  cases h <;> exact ⟨rfl, rfl, rfl, rfl⟩

theorem perform_sameFrame (s : State) (o : Op) (r : Answer) : SameFrame s (s.perform o r) :=
  ⟨by simp, by simp, by simp, by simp⟩

theorem SameFrame.trans {s t u : State} (h : SameFrame s t) (h' : SameFrame t u) : SameFrame s u :=
  ⟨h'.cfg.trans h.cfg, h'.rows.trans h.rows, h'.cols.trans h.cols, h'.fb.trans h.fb⟩

/-- A step of a SHOW writes none of the frame's registers, whatever its operation is answered (R108). -/
theorem sequence_sameFrame {p : Params} {s t : State} {i : Signals} (h : s.sequence p i = .next t) : SameFrame s t := by
  obtain ⟨o, -, ⟨-, rfl⟩ | ⟨-, ha⟩ | ⟨-, rfl⟩⟩ := sequence_next p s t i h
  case inl => exact ⟨rfl, rfl, rfl, rfl⟩
  case inr.inl => exact (perform_sameFrame s o .ok).trans ha.sameFrame
  case inr.inr => exact (perform_sameFrame s o .fault).trans ⟨rfl, rfl, rfl, rfl⟩

/-- Everything a step can do to the frame's registers: nothing, reset, the writes of an INIT or of a SET. -/
inductive FrameStep (s t : State) : Prop where
  | same (h : SameFrame s t)
  | reset (i : Signals) (rest : List Signals) (hi : s.inputs = i :: rest) (hr : i.rst = true)
      (ht : t = State.afterReset rest)
  | init (i : Signals) (rest : List Signals) (c : CmdWord) (rows cols : BitVec 6) (fill : BitVec 16)
      (hi : s.inputs = i :: rest) (hp : s.phase = .idle) (hc : i.cmd = some c)
      (hd : decode c = .ok (.init rows cols fill)) (hcfg : s.cfg = false)
      (ht : t = ((s.accept rest).build Config.params rows cols fill).respond 0)
  | set (rest : List Signals) (row col : BitVec 6) (value : BitVec 16)
      (ht : t = ((s.accept rest).putPixel Config.params row col value).respond 0)

theorem frameStep_of_step {s t : State} (h : step s = .next t) : FrameStep s t := by
  cases step_next s t h with
  | still _ ht => subst ht; exact .same ⟨rfl, rfl, rfl, rfl⟩
  | reset i rest hi hr ht => exact .reset i rest hi hr ht
  | waits _ _ _ _ _ _ ht => subst ht; exact .same ⟨rfl, rfl, rfl, rfl⟩
  | illegal _ _ _ _ _ _ _ _ _ ht => subst ht; exact .same ⟨rfl, rfl, rfl, rfl⟩
  | sequenced _ rest _ _ _ ht =>
    have hbegin : SameFrame s (s.beginStep rest) := ⟨rfl, rfl, rfl, rfl⟩
    exact .same (hbegin.trans (sequence_sameFrame ht))
  | command i rest c instr hi _ hp hc hd ht =>
    obtain ⟨-, rfl⟩ | ⟨hok, hdone⟩ := exec_next instr _ t ht
    · exact .same ⟨rfl, rfl, rfl, rfl⟩
    · cases hdone with
      | init _ rows cols fill =>
        obtain ⟨hcfg, -, -⟩ := (initStatus_ok_iff _ _ _ _ _).mp hok
        exact .init i rest c rows cols fill hi hp hc hd hcfg rfl
      | set _ row col value => exact .set rest row col value rfl
      | get | scanrd | showFb => exact .same ⟨rfl, rfl, rfl, rfl⟩

/-- Settles O54: a step replaces the cell list by the empty one, fills it, writes one cell, or leaves it. -/
theorem everyStepKeepsTheCellListCanonical : Obligations.EveryStepKeepsTheCellListCanonical := by
  intro s t hwf h
  cases frameStep_of_step h with
  | same h => rw [h.fb]; exact hwf
  | reset _ _ _ _ ht => subst ht; exact Memory.wf_nil
  | init _ _ _ _ _ _ _ _ _ _ _ ht => subst ht; exact Memory.fill_wf _ _ _ hwf
  | set _ _ _ _ ht => subst ht; exact Memory.write_wf _ _ _ hwf

/-- Settles O56: of the steps that write the frame's registers, reset alone clears `CFG`, INIT alone sets it, and only
from `CFG = 0`, and SET writes a cell. -/
theorem onlyResetClearsAndOnlyInitSetsCfg : Obligations.OnlyResetClearsAndOnlyInitSetsCfg := by
  intro s t i rest hi h
  cases frameStep_of_step h with
  | same h => simp +contextual [h.cfg, h.rows, h.cols]
  | reset j rest' hj hr ht =>
    obtain ⟨rfl, -⟩ := List.cons_eq_cons.mp (hi.symm.trans hj)
    have hcfg : t.cfg = false := by subst ht; rfl
    simp [hr, hcfg]
  | init j rest' c rows cols fill hj hp hc hd hcfg ht =>
    obtain ⟨rfl, -⟩ := List.cons_eq_cons.mp (hi.symm.trans hj)
    subst ht
    simp [hcfg, hp, hc, hd]
  | set _ _ _ _ ht => subst ht; simp +contextual

/-! ### Reset -/

/-- Reset gives every register its value, whatever is still to come (R24, R99). -/
theorem isResetState_afterReset (rest : List Signals) : IsResetState (State.afterReset rest) where
  cfg := rfl
  rows := rfl
  cols := rfl
  cells _ := rfl
  clk := rfl
  data := rfl
  pins := ⟨rfl, rfl⟩
  phase := rfl
  position := ⟨rfl, rfl, rfl, rfl⟩
  word := rfl
  response := rfl
  ports := ⟨rfl, rfl⟩
  trace := rfl

theorem cmdReady_eq_true_iff (s : State) (i : Signals) : s.cmdReady i = true ↔ i.rst = false ∧ s.phase = .idle := by
  simp [State.cmdReady]

/-- Settles O12: the reset step answers the state after reset with the rest of the signals, and that state is Idle. -/
theorem resetOverridesEverything : Obligations.ResetOverridesEverything := by
  refine ⟨fun s i rest hi hr => ⟨?notReady, State.afterReset rest, step_reset s i rest hi hr,
    isResetState_afterReset rest, rfl, fun j hj => ?ready⟩, isResetState_afterReset []⟩
  case notReady => simp [State.cmdReady, hr]
  case ready => exact (cmdReady_eq_true_iff _ j).mpr ⟨hj, rfl⟩

/-! ### A cell that holds no value -/

theorem respondCell_eq_fault {s : State} {i : Nat} (h : s.fb.read i = none) :
    s.respondCell i = .fault (.cellHoldsNoValue i) := by
  simp [State.respondCell, h]

/-- Settles O18: the checks of the command pass, so it comes to the read, and the read finds no value. -/
theorem cellWithoutValueIsNotRead : Obligations.CellWithoutValueIsNotRead := by
  intro s hcfg
  constructor
  · intro row col hrow hcol hread
    have hok : getStatus s row col = .ok :=
      (getStatus_ok_iff s row col).mpr ⟨hcfg, (inBounds_iff s row col).mpr ⟨hrow, hcol⟩⟩
    exact (getAt_ok row col s hok).trans (respondCell_eq_fault hread)
  · intro k hk hread
    have hok : scanrdStatus s k = .ok := (scanrdStatus_ok_iff s k).mpr ⟨hcfg, hk⟩
    exact (scanrdAt_ok Config.params k s hok).trans (respondCell_eq_fault hread)

/-! ### Laws of the operations that the invariants need -/

/-- A written line is unknown or at the level written (R68). -/
theorem lineAfter_eq_X_or_ofLevel (v : Level) (r : Answer) : lineAfter v r = .X ∨ lineAfter v r = .ofLevel v := by
  cases r
  case ok => exact .inr rfl
  case fault => exact .inl rfl

/-- Keeping the low bits of a value does not make it larger, so it stays in the domain (R61). -/
theorem lowBits_toNat_le (w : Nat) (v : BitVec 16) : (lowBits w v).toNat ≤ v.toNat := by
  simp only [lowBits, BitVec.toNat_ofNat]
  exact (Nat.mod_le _ _).trans (Nat.mod_le _ _)

/-- The sequencer advances in a SHOW only (R71). -/
theorem Advanced.busy {p : Params} {s t : State} (h : Advanced p s t) : s.phase ≠ .idle := by
  cases h <;> simp [*]

end Sys2Proof.Machine

/-! Proofs for 10_state.md: the invariants of R23 and R25. Each of them is kept by each update of the state; a step is one
of the cases of `Stepped`, `Done` and `Advanced`. -/
namespace Sys2Proof

open Sys2Proof.Config (Params)
open Sys2Proof.Machine

/-! ### The invariants at reset -/

/-- The invariants hold after reset, whatever is still to come (R25). -/
theorem encoderInv_afterReset (p : Params) (rest : List Signals) : EncoderInv p (State.afterReset rest) where
  wf := Memory.wf_nil
  unconfigured _ := ⟨rfl, rfl, rfl, rfl⟩
  configured h := Bool.noConfusion h
  sequencer := ⟨rfl, rfl, rfl, rfl, rfl⟩
  pins := ⟨.inr rfl, .inr rfl⟩

/-- Settles O51: the reset state is the one a reset step leaves when no signals remain. -/
theorem invariantsHoldAtReset : Obligations.InvariantsHoldAtReset :=
  encoderInv_afterReset Config.params []

/-! ### The sequencer's registers in each phase -/

section Phases

variable {p : Params} {s : State}

theorem invSequencer_of_idle (hph : s.phase = .idle) :
    InvSequencer p s ↔ s.widx = 0 ∧ s.bidx = 0 ∧ s.sub = 0 ∧ s.pcnt = 0 ∧ s.word = 0 := by
  simp [InvSequencer, hph]

theorem invSequencer_of_start (hph : s.phase = .start) :
    InvSequencer p s ↔ s.widx = 0 ∧ s.bidx = 0 ∧ s.sub.toNat ≤ 1 ∧ s.pcnt = 0 ∧ s.word = 0 := by
  simp [InvSequencer, hph]

theorem invSequencer_of_word (hph : s.phase = .word) :
    InvSequencer p s ↔ s.widx.toNat < s.cells ∧ s.sub.toNat ≤ 4 ∧ s.pcnt = 0 ∧
      (s.scanPixel p s.widx.toNat).map (txWord p) = some s.word := by
  simp [InvSequencer, hph]

theorem invSequencer_of_latch (hph : s.phase = .latch) :
    InvSequencer p s ↔ s.widx = 0 ∧ s.bidx = 0 ∧ s.sub.toNat ≤ 5 ∧ s.pcnt.toNat < p.latchPulses ∧ s.word = 0 ∧
      (s.sub.toNat < 2 → s.pcnt = 0) := by
  simp [InvSequencer, hph]

end Phases

theorem invSequencer_toIdle (p : Params) (s : State) : InvSequencer p s.toIdle :=
  ⟨rfl, rfl, rfl, rfl, rfl⟩

/-- The word of a scan index whose cell was read is the one R23 asks for. -/
theorem invSequencer_toWord {p : Params} {s : State} {k : BitVec 12} {v : Pixel} (hk : k.toNat < s.cells)
    (hv : s.scanPixel p k.toNat = some v) : InvSequencer p (s.toWord k (txWord p v)) :=
  (invSequencer_of_word rfl).mpr ⟨hk, Nat.zero_le _, rfl, by simp [hv]⟩

/-! ### Updates that keep the invariants -/

namespace EncoderInv

variable {p : Params} {s : State}

/-- A SHOW is in progress in a configured encoder only (R25.1). -/
theorem cfg_of_busy (h : EncoderInv p s) (hp : s.phase ≠ .idle) : s.cfg = true := by
  by_contra hc
  obtain ⟨-, -, -, hidle⟩ := h.unconfigured (by simpa using hc)
  exact hp hidle

/-- A configured grid has a cell (R25.2). -/
theorem cells_pos (h : EncoderInv p s) (hcfg : s.cfg = true) : 0 < s.cells := by
  obtain ⟨⟨hrows, -⟩, ⟨hcols, -⟩, -⟩ := h.configured hcfg
  exact Nat.mul_pos hrows hcols

/-- The invariants speak of no response, port, trace or signal to come. -/
theorem outputs (h : EncoderInv p s) (r : Option Response) (o : Option Op) (es : List Event) (ins : List Signals) :
    EncoderInv p { s with rsp := r, op := o, trace := es, inputs := ins } :=
  ⟨h.wf, h.unconfigured, h.configured, h.sequencer, h.pins⟩

theorem respond (h : EncoderInv p s) (d : BitVec 16) : EncoderInv p (s.respond d) :=
  h.outputs _ _ _ _

theorem raise (h : EncoderInv p s) (e : Status) (d : BitVec 16) : EncoderInv p (s.raise e d) :=
  h.outputs _ _ _ _

theorem beginStep (h : EncoderInv p s) (rest : List Signals) : EncoderInv p (s.beginStep rest) :=
  h.outputs _ _ _ _

theorem accept (h : EncoderInv p s) (rest : List Signals) : EncoderInv p (s.accept rest) :=
  h.outputs _ _ _ _

/-- In a configured encoder the sequencer may move to any position and word that meet the sequencer's own invariant. -/
theorem reposition (h : EncoderInv p s) (hcfg : s.cfg = true) {ph : Phase} {k : BitVec 12} {b : BitVec 4} {u : BitVec 3}
    {n : BitVec 8} {w : TxWord}
    (hseq : InvSequencer p { s with phase := ph, widx := k, bidx := b, sub := u, pcnt := n, word := w }) :
    EncoderInv p { s with phase := ph, widx := k, bidx := b, sub := u, pcnt := n, word := w } :=
  ⟨h.wf, fun hc => absurd (hcfg.symm.trans hc) (by decide), h.configured, hseq, h.pins⟩

/-- An answered operation leaves its line unknown or at the level its pin carries (R17, R50, R68). -/
theorem perform (h : EncoderInv p s) (o : Op) (r : Answer) : EncoderInv p (s.perform o r) := by
  obtain ⟨hwf, hun, hcon, hseq, hclk, hdata⟩ := h
  cases o with
  | setClk v => exact ⟨hwf, hun, hcon, hseq, lineAfter_eq_X_or_ofLevel v r, hdata⟩
  | setData v => exact ⟨hwf, hun, hcon, hseq, hclk, lineAfter_eq_X_or_ofLevel v r⟩
  | delay d => exact ⟨hwf, hun, hcon, hseq, hclk, hdata⟩

/-! ### The sequencer -/

/-- The advance keeps the invariants (R71 to R75). A latch is entered before its first pulse, so there must be one. -/
theorem advanced (h : EncoderInv p s) (hl : 0 < p.latchPulses) {t : State} (ha : Advanced p s t) : EncoderInv p t := by
  have hcfg : s.cfg = true := h.cfg_of_busy ha.busy
  cases ha with
  | start hph _ =>
    obtain ⟨hw, hb, -, hn, hd⟩ := (invSequencer_of_start hph).mp h.sequencer
    exact h.reposition hcfg (Iff.mpr (invSequencer_of_start hph) ⟨hw, hb, Nat.le_refl 1, hn, hd⟩)
  | firstWord _ _ v hv => exact h.reposition hcfg (invSequencer_toWord (h.cells_pos hcfg) hv)
  | inBit hph h4 =>
    obtain ⟨hw, -, hn, hd⟩ := (invSequencer_of_word hph).mp h.sequencer
    exact h.reposition hcfg (Iff.mpr (invSequencer_of_word hph) ⟨hw, by bv_omega, hn, hd⟩)
  | nextBit hph _ _ =>
    obtain ⟨hw, -, hn, hd⟩ := (invSequencer_of_word hph).mp h.sequencer
    exact h.reposition hcfg (Iff.mpr (invSequencer_of_word hph) ⟨hw, Nat.zero_le _, hn, hd⟩)
  | nextWord _ _ _ hw v hv =>
    have hlt : (s.widx + 1).toNat < s.cells := by bv_omega
    exact h.reposition hcfg (invSequencer_toWord hlt hv)
  | toLatch _ _ _ _ =>
    exact h.reposition hcfg ((invSequencer_of_latch rfl).mpr ⟨rfl, rfl, Nat.zero_le _, hl, rfl, fun _ => rfl⟩)
  | inLatch hph h5 =>
    obtain ⟨hw, hb, -, hn, hd, h0⟩ := (invSequencer_of_latch hph).mp h.sequencer
    exact h.reposition hcfg
      (Iff.mpr (invSequencer_of_latch hph) ⟨hw, hb, by bv_omega, hn, hd, fun h2 => h0 (by bv_omega)⟩)
  | nextPulse hph _ hp =>
    obtain ⟨hw, hb, -, -, hd, -⟩ := (invSequencer_of_latch hph).mp h.sequencer
    have hlt : (s.pcnt + 1).toNat < p.latchPulses := by bv_omega
    exact h.reposition hcfg
      (Iff.mpr (invSequencer_of_latch hph) ⟨hw, hb, by simp, hlt, hd, fun h2 => absurd h2 (Nat.lt_irrefl 2)⟩)
  | finish _ _ _ => exact (h.reposition hcfg (invSequencer_toIdle p s)).respond 0

/-- A step of a SHOW keeps the invariants, whatever its operation is answered. -/
theorem sequence (h : EncoderInv p s) (hl : 0 < p.latchPulses) (hp : s.phase ≠ .idle) {t : State} {i : Signals}
    (ht : s.sequence p i = .next t) : EncoderInv p t := by
  obtain ⟨o, -, ⟨-, rfl⟩ | ⟨-, ha⟩ | ⟨-, rfl⟩⟩ := sequence_next p s t i ht
  case inl => exact h.outputs _ _ _ _
  case inr.inl => exact (h.perform o .ok).advanced hl ha
  case inr.inr =>
    have hcfg : (s.perform o .fault).cfg = true := by simpa using h.cfg_of_busy hp
    exact ((h.perform o .fault).reposition hcfg (invSequencer_toIdle p _)).raise _ _

/-! ### The commands -/

/-- INIT builds a grid that meets R25.2: every cell below `N` holds the fill, and no other cell was listed before. -/
theorem build (h : EncoderInv p s) {rows cols : BitVec 6} {fill : BitVec 16}
    (hok : initStatus p s rows cols fill = .ok) : EncoderInv p (s.build p rows cols fill) := by
  obtain ⟨hcfg, hdim, hfill⟩ := (initStatus_ok_iff p s rows cols fill).mp hok
  obtain ⟨hrows, hcols⟩ := (dimensionsOk_iff p rows cols).mp hdim
  have hle : fill.toNat ≤ p.maxIntensity := (valueOk_iff p fill).mp hfill
  obtain ⟨-, -, hempty, hidle⟩ := h.unconfigured hcfg
  refine ⟨Memory.fill_wf _ _ _ h.wf, fun hc => Bool.noConfusion hc, fun _ => ⟨hrows, hcols, fun i hi => ?_, fun i hi => ?_⟩,
    ?_, h.pins⟩
  · refine ⟨lowBits p.w fill, ?_, (lowBits_toNat_le _ _).trans hle⟩
    rw [State.build_cells] at hi
    simp [Memory.read_fill, hi]
  · rw [State.build_cells] at hi
    simp [Memory.read_fill, hempty, Nat.not_lt.mpr hi]
  · exact Iff.mpr (invSequencer_of_idle hidle) ((invSequencer_of_idle hidle).mp h.sequencer)

/-- SET writes a value of the domain to an existing cell. -/
theorem putPixel (h : EncoderInv p s) (hidle : s.phase = .idle) {row col : BitVec 6} {value : BitVec 16}
    (hok : setStatus p s row col value = .ok) : EncoderInv p (s.putPixel p row col value) := by
  obtain ⟨hcfg, hbounds, hvalue⟩ := (setStatus_ok_iff p s row col value).mp hok
  have hle : value.toNat ≤ p.maxIntensity := (valueOk_iff p value).mp hvalue
  have hlt : s.cellIndex row col < s.cells := cellIndex_lt s row col hbounds
  obtain ⟨hrows, hcols, hcells, hother⟩ := h.configured hcfg
  refine ⟨Memory.write_wf _ _ _ h.wf, fun hc => absurd (hcfg.symm.trans hc) (by decide),
    fun _ => ⟨hrows, hcols, fun i hi => ?_, fun i hi => ?_⟩, ?_, h.pins⟩
  · rw [State.putPixel_fb, Memory.read_write]
    split
    · exact ⟨_, rfl, (lowBits_toNat_le _ _).trans hle⟩
    · exact hcells i hi
  · have hne : i ≠ s.cellIndex row col := fun he => absurd hlt (by simpa [← he] using hi)
    rw [State.putPixel_fb, Memory.read_write_other _ _ _ _ hne]
    exact hother i hi
  · exact Iff.mpr (invSequencer_of_idle hidle) ((invSequencer_of_idle hidle).mp h.sequencer)

/-- SHOW leaves Idle with every sequencer register at zero (R70). -/
theorem toStart (h : EncoderInv p s) (hidle : s.phase = .idle) (hcfg : s.cfg = true) : EncoderInv p s.toStart := by
  obtain ⟨-, -, -, -, hw⟩ := (invSequencer_of_idle hidle).mp h.sequencer
  exact h.reposition hcfg ((invSequencer_of_start rfl).mpr ⟨rfl, rfl, Nat.zero_le _, rfl, hw⟩)

/-- A command executed in Idle keeps the invariants. -/
theorem exec (h : EncoderInv Config.params s) (hidle : s.phase = .idle) {instr : Instr} {t : State}
    (ht : exec instr s = .next t) : EncoderInv Config.params t := by
  obtain ⟨-, rfl⟩ | ⟨hok, hdone⟩ := exec_next instr s t ht
  · exact h.raise _ _
  · cases hdone with
    | init => exact (h.build hok).respond 0
    | set => exact (h.putPixel hidle hok).respond 0
    | get | scanrd => exact h.respond _
    | showFb => exact h.toStart hidle ((showStatus_ok_iff s).mp hok)

end EncoderInv

/-- Settles O52, by the cases of a step. -/
theorem everyStepKeepsTheInvariants : Obligations.EveryStepKeepsTheInvariants := by
  intro s t h hstep
  cases step_next s t hstep with
  | still _ ht => subst ht; exact h
  | reset _ rest _ _ ht => subst ht; exact encoderInv_afterReset _ rest
  | waits _ rest _ _ _ _ ht => subst ht; exact h.beginStep rest
  | illegal _ rest _ _ _ _ _ _ _ ht => subst ht; exact (h.accept rest).raise _ _
  | command _ rest _ _ _ _ hp _ _ ht => exact (h.accept rest).exec hp ht
  | sequenced _ rest _ _ hp ht => exact (h.beginStep rest).sequence (by decide) hp ht

end Sys2Proof

/-! Proofs for 20_memory.md: the cell index of a pair (R29) and the order in which the cells are sent (R32). -/
namespace Sys2Proof.Machine

open Sys2Proof.Config (Params ScanBijective)

/-! ### The cell index -/

/-- A dimension has six bits, so a grid has at most 63 rows of 63 cells. -/
theorem cells_le (s : State) : s.cells ≤ 63 * 63 :=
  Nat.mul_le_mul (Nat.le_of_lt_succ s.rows.isLt) (Nat.le_of_lt_succ s.cols.isLt)

/-- The division that takes an in-bounds pair's cell index apart again (R29). -/
theorem cellIndex_div_mod {s : State} {row col : BitVec 6} (h : s.inBounds row col = true) :
    s.cellIndex row col / s.cols.toNat = row.toNat ∧ s.cellIndex row col % s.cols.toNat = col.toNat := by
  obtain ⟨-, hcol⟩ := (inBounds_iff s row col).mp h
  refine (Nat.div_mod_unique (Nat.zero_lt_of_lt hcol)).mpr ⟨?_, hcol⟩
  rw [State.cellIndex, Nat.mul_comm, Nat.add_comm]

theorem cellIndex_injective {s : State} {row col row' col' : BitVec 6} (h : s.inBounds row col = true)
    (h' : s.inBounds row' col' = true) (he : s.cellIndex row col = s.cellIndex row' col') : row = row' ∧ col = col' := by
  obtain ⟨hrow, hcol⟩ := cellIndex_div_mod h
  obtain ⟨hrow', hcol'⟩ := cellIndex_div_mod h'
  exact ⟨BitVec.eq_of_toNat_eq (by rw [← hrow, he, hrow']), BitVec.eq_of_toNat_eq (by rw [← hcol, he, hcol'])⟩

/-- Every cell has a pair: the quotient and the remainder fit the six bits of a coordinate, as the dimensions do (R29). -/
theorem exists_cellIndex_eq {s : State} {i : Nat} (hi : i < s.cells) :
    ∃ row col : BitVec 6, s.inBounds row col = true ∧ s.cellIndex row col = i := by
  have hcols : 0 < s.cols.toNat := Nat.pos_of_mul_pos_left (Nat.zero_lt_of_lt hi)
  have hrow : i / s.cols.toNat < s.rows.toNat := (Nat.div_lt_iff_lt_mul hcols).mpr hi
  have hcol : i % s.cols.toNat < s.cols.toNat := Nat.mod_lt i hcols
  refine ⟨BitVec.ofNatLT _ (hrow.trans s.rows.isLt), BitVec.ofNatLT _ (hcol.trans s.cols.isLt), ?_, ?_⟩
  · exact (inBounds_iff s _ _).mpr ⟨hrow, hcol⟩
  · exact Nat.div_add_mod' i s.cols.toNat

/-- Settles O22: the inverse is division with remainder by `COLS`, and 3968 is the last of 63 times 63 cells. -/
theorem cellIndexIsABijection : Obligations.CellIndexIsABijection := by
  intro s
  refine ⟨fun row col h => ?pair, fun _ _ _ _ h h' he => cellIndex_injective h h' he, fun i hi => exists_cellIndex_eq hi⟩
  case pair =>
    obtain ⟨hrow, hcol⟩ := cellIndex_div_mod h
    have hlt : s.cellIndex row col < s.cells := cellIndex_lt s row col h
    exact ⟨rfl, hlt, Nat.le_of_lt_succ (hlt.trans_le (cells_le s)), hrow.symm, hcol.symm⟩

/-! ### The scan sequence -/

/-- A bijection on `{0..n-1}` lists these indices in another order. -/
theorem map_range_perm {f : Nat → Nat} {n : Nat} (h : ScanBijective f n) : ((List.range n).map f).Perm (List.range n) := by
  obtain ⟨hrange, hinj, hsurj⟩ := h
  have hnodup : ((List.range n).map f).Nodup :=
    List.nodup_range.map_on fun k hk j hj => hinj k (List.mem_range.mp hk) j (List.mem_range.mp hj)
  refine (List.perm_ext_iff_of_nodup hnodup List.nodup_range).mpr fun i => ?_
  simp only [List.mem_map, List.mem_range]
  exact ⟨fun ⟨k, hk, hki⟩ => hki ▸ hrange k hk, hsurj i⟩

/-- The reads of a list of cells that all hold a value give these values in the order of the list. -/
theorem Memory.mapM_read {m : Memory} {l : List Nat} (h : ∀ i ∈ l, ∃ v, m.read i = some v) :
    l.mapM m.read = some (l.filterMap m.read) := by
  induction l with
  | nil => rfl
  | cons i l ih =>
    obtain ⟨⟨v, hv⟩, hl⟩ := List.forall_mem_cons.mp h
    simp [List.mapM_cons, hv, ih hl]

/-- The scan sequence is the cells' values in the order in which `SCAN` lists the cells (R32). -/
theorem scanSeq_eq_mapM_read (p : Params) (s : State) :
    s.scanSeq p = ((List.range s.cells).map (s.scanIndex p)).mapM s.fb.read :=
  List.mapM_map.symm

end Sys2Proof.Machine

namespace Sys2Proof

open Sys2Proof.Config (Params ScanBijective)
open Sys2Proof.Machine

/-- The grid of a configured encoder is one for which `SCAN` is a bijection (R6, R25.2). -/
theorem EncoderInv.scanIndex_bijective {p : Params} {s : State} (h : EncoderInv p s) (hp : p.Admissible)
    (hcfg : s.cfg = true) : ScanBijective (s.scanIndex p) s.cells := by
  obtain ⟨⟨hrows, hrows'⟩, ⟨hcols, hcols'⟩, -⟩ := h.configured hcfg
  exact hp.scan _ _ hrows hrows' hcols hcols'

/-- Settles O25: `SCAN` rearranges the cell indices, and the cells are read in the order of the indices. -/
theorem scanSequenceIsARearrangementOfTheCells : Obligations.ScanSequenceIsARearrangementOfTheCells := by
  intro p s hp h hcfg
  have hperm : ((List.range s.cells).map (s.scanIndex p)).Perm (List.range s.cells) :=
    map_range_perm (h.scanIndex_bijective hp hcfg)
  obtain ⟨-, -, hcells, -⟩ := h.configured hcfg
  have hread : ∀ i ∈ List.range s.cells, ∃ v, s.fb.read i = some v := fun i hi =>
    (hcells i (List.mem_range.mp hi)).imp fun _ hv => hv.1
  refine ⟨_, _, ?sequence, Memory.mapM_read hread, hperm.filterMap s.fb.read⟩
  case sequence =>
    exact (scanSeq_eq_mapM_read p s).trans (Memory.mapM_read fun i hi => hread i (hperm.mem_iff.mp hi))

end Sys2Proof

/-! Proofs for 30_encoding.md: the command, response and transmission words (R40 to R45, R48). -/
namespace Sys2Proof

open Sys2Proof.Config (Params)
open Sys2Proof.Machine

/-! ### The decoder reads back the encoder -/

/-- The converse of `decode_ok`: the decoder reads a command from each word `Decoded` names. -/
theorem Decoded.decode_eq {c : CmdWord} {i : Instr} (h : Decoded c i) : decode c = .ok i := by
  cases h <;> simp [decode, *]

theorem decode_eq_ok_iff (c : CmdWord) (i : Instr) : decode c = .ok i ↔ Decoded c i :=
  ⟨decode_ok c i, Decoded.decode_eq⟩

/-- A word that is the sum of its shifted fields has these fields (R41, R43). -/
theorem fields_of_toNat {c : CmdWord} {op : Nat} {row col : BitVec 6} {value : BitVec 16}
    (h : c.toNat = op * 2 ^ 28 + row.toNat * 2 ^ 22 + col.toNat * 2 ^ 16 + value.toNat) :
    (fieldOp c).toNat = op ∧ fieldRow c = row ∧ fieldCol c = col ∧ fieldValue c = value := by
  have := row.isLt; have := col.isLt; have := value.isLt
  refine ⟨?_, BitVec.eq_of_toNat_eq ?_, BitVec.eq_of_toNat_eq ?_, BitVec.eq_of_toNat_eq ?_⟩
  · rw [fieldOp_toNat]; omega
  · rw [fieldRow_toNat]; omega
  · rw [fieldCol_toNat]; omega
  · rw [fieldValue_toNat]; omega

/-- The same for a word with a `K` field and no `VALUE` (R41, R43). -/
theorem fields_of_toNat_scanIndex {c : CmdWord} {op : Nat} {k : BitVec 12}
    (h : c.toNat = op * 2 ^ 28 + k.toNat * 2 ^ 16) :
    (fieldOp c).toNat = op ∧ fieldK c = k ∧ fieldValue c = 0 := by
  have := k.isLt
  refine ⟨?_, BitVec.eq_of_toNat_eq ?_, BitVec.eq_of_toNat_eq ?_⟩
  · rw [fieldOp_toNat]; omega
  · rw [fieldK_toNat]; omega
  · rw [fieldValue_toNat]; simp; omega

/-- The word of a command has the command's fields, so it is one the decoder reads as that command. -/
theorem decode_encode (i : Instr) : decode (encode i) = .ok i := by
  cases i with
  | init rows cols fill =>
    obtain ⟨hop, hrow, hcol, hvalue⟩ := fields_of_toNat (encode_init_toNat rows cols fill)
    rw [(Decoded.init hop).decode_eq, hrow, hcol, hvalue]
  | set row col value =>
    obtain ⟨hop, hrow, hcol, hvalue⟩ := fields_of_toNat (encode_set_toNat row col value)
    rw [(Decoded.set hop).decode_eq, hrow, hcol, hvalue]
  | get row col =>
    obtain ⟨hop, hrow, hcol, hvalue⟩ :=
      fields_of_toNat (value := 0) ((encode_get_toNat row col).trans (Nat.add_zero _).symm)
    rw [(Decoded.get hop hvalue).decode_eq, hrow, hcol]
  | scanrd k =>
    obtain ⟨hop, hk, hvalue⟩ := fields_of_toNat_scanIndex (encode_scanrd_toNat k)
    rw [(Decoded.scanrd hop hvalue).decode_eq, hk]
  | showFb => decide

/-- Settles O1, by the fields of the word of each command. -/
theorem decodeReadsBackEveryCommand : Obligations.DecodeReadsBackEveryCommand :=
  fun i _ => decode_encode i

/-! ### A legal word is its command's word -/

theorem fieldValue_eq_zero_iff (c : CmdWord) : fieldValue c = 0 ↔ c.toNat % 2 ^ 16 = 0 := by
  rw [← fieldValue_toNat]
  exact BitVec.toNat_inj.symm

theorem fieldBelowOp_eq_zero_iff (c : CmdWord) : fieldBelowOp c = 0 ↔ c.toNat % 2 ^ 28 = 0 := by
  rw [← fieldBelowOp_toNat]
  exact BitVec.toNat_inj.symm

/-- Opcode, operands and reserved zeros are all 32 bits of a legal word (R42, R44). -/
theorem Decoded.encode_eq {c : CmdWord} {i : Instr} (h : Decoded c i) : encode i = c := by
  apply BitVec.eq_of_toNat_eq
  cases h with
  | init hop =>
    rw [encode_init_toNat, fieldRow_toNat, fieldCol_toNat, fieldValue_toNat]
    rw [fieldOp_toNat] at hop
    omega
  | set hop =>
    rw [encode_set_toNat, fieldRow_toNat, fieldCol_toNat, fieldValue_toNat]
    rw [fieldOp_toNat] at hop
    omega
  | get hop hvalue =>
    rw [encode_get_toNat, fieldRow_toNat, fieldCol_toNat]
    rw [fieldOp_toNat] at hop
    rw [fieldValue_eq_zero_iff] at hvalue
    omega
  | scanrd hop hvalue =>
    rw [encode_scanrd_toNat, fieldK_toNat]
    rw [fieldOp_toNat] at hop
    rw [fieldValue_eq_zero_iff] at hvalue
    omega
  | showFb hop hbelow =>
    rw [encode_show_toNat]
    rw [fieldOp_toNat] at hop
    rw [fieldBelowOp_eq_zero_iff] at hbelow
    omega

/-- Settles O2. -/
theorem everyLegalWordIsItsCommandsWord : Obligations.EveryLegalWordIsItsCommandsWord :=
  fun c i h => (decode_ok c i h).encode_eq

/-- Settles O5, by evaluating the decoder on the five words. -/
theorem wordsFromTheSpecDecode : Obligations.WordsFromTheSpecDecode := by
  refine ⟨?_, ?_, ?_, ?_, ?_⟩ <;> decide

/-! ### The opcode map -/

/-! Which words are which command (R42), as numbers. -/

theorem exists_decode_init_iff (c : CmdWord) : (∃ r k f, decode c = .ok (.init r k f)) ↔ c.toNat / 2 ^ 28 = 1 := by
  simp only [decode_eq_ok_iff, ← fieldOp_toNat]
  exact ⟨fun ⟨_, _, _, .init hop⟩ => hop, fun hop => ⟨_, _, _, .init hop⟩⟩

theorem exists_decode_set_iff (c : CmdWord) : (∃ r k v, decode c = .ok (.set r k v)) ↔ c.toNat / 2 ^ 28 = 2 := by
  simp only [decode_eq_ok_iff, ← fieldOp_toNat]
  exact ⟨fun ⟨_, _, _, .set hop⟩ => hop, fun hop => ⟨_, _, _, .set hop⟩⟩

theorem exists_decode_get_iff (c : CmdWord) :
    (∃ r k, decode c = .ok (.get r k)) ↔ c.toNat / 2 ^ 28 = 3 ∧ c.toNat % 2 ^ 16 = 0 := by
  simp only [decode_eq_ok_iff, ← fieldOp_toNat, ← fieldValue_eq_zero_iff]
  exact ⟨fun ⟨_, _, .get hop hvalue⟩ => ⟨hop, hvalue⟩, fun ⟨hop, hvalue⟩ => ⟨_, _, .get hop hvalue⟩⟩

theorem exists_decode_scanrd_iff (c : CmdWord) :
    (∃ k, decode c = .ok (.scanrd k)) ↔ c.toNat / 2 ^ 28 = 4 ∧ c.toNat % 2 ^ 16 = 0 := by
  simp only [decode_eq_ok_iff, ← fieldOp_toNat, ← fieldValue_eq_zero_iff]
  exact ⟨fun ⟨_, .scanrd hop hvalue⟩ => ⟨hop, hvalue⟩, fun ⟨hop, hvalue⟩ => ⟨_, .scanrd hop hvalue⟩⟩

theorem decode_showFb_iff (c : CmdWord) : decode c = .ok .showFb ↔ c.toNat / 2 ^ 28 = 5 ∧ c.toNat % 2 ^ 28 = 0 := by
  simp only [decode_eq_ok_iff, ← fieldOp_toNat, ← fieldBelowOp_eq_zero_iff]
  exact ⟨fun | .showFb hop hbelow => ⟨hop, hbelow⟩, fun ⟨hop, hbelow⟩ => .showFb hop hbelow⟩

/-- A word is illegal when it is none of the five commands. -/
theorem exists_decode_error_iff (c : CmdWord) :
    (∃ e, decode c = .error e) ↔
      ¬ (c.toNat / 2 ^ 28 = 1 ∨ c.toNat / 2 ^ 28 = 2 ∨ (c.toNat / 2 ^ 28 = 3 ∧ c.toNat % 2 ^ 16 = 0) ∨
        (c.toNat / 2 ^ 28 = 4 ∧ c.toNat % 2 ^ 16 = 0) ∨ (c.toNat / 2 ^ 28 = 5 ∧ c.toNat % 2 ^ 28 = 0)) := by
  rw [← exists_decode_init_iff, ← exists_decode_set_iff, ← exists_decode_get_iff, ← exists_decode_scanrd_iff,
    ← decode_showFb_iff]
  cases hd : decode c with
  | error e => simp
  | ok i => cases i <;> simp

/-! Which words a row's match and mask select (R42), as numbers: each mask keeps `OP` and what the command reserves. -/

theorem maskOp_eq_iff (c w : CmdWord) : c &&& 0xF0000000#32 = w ↔ c.toNat / 2 ^ 28 * 2 ^ 28 = w.toNat := by
  rw [← BitVec.toNat_inj, maskOp_toNat]

theorem maskOpValue_eq_iff (c w : CmdWord) :
    c &&& 0xF000FFFF#32 = w ↔ c.toNat / 2 ^ 28 * 2 ^ 28 + c.toNat % 2 ^ 16 = w.toNat := by
  rw [← BitVec.toNat_inj, maskOpValue_toNat]

theorem selects_init_iff (c : CmdWord) : c &&& 0xF0000000#32 = 0x10000000#32 ↔ c.toNat / 2 ^ 28 = 1 := by
  rw [maskOp_eq_iff, BitVec.toNat_ofNat]; omega

theorem selects_set_iff (c : CmdWord) : c &&& 0xF0000000#32 = 0x20000000#32 ↔ c.toNat / 2 ^ 28 = 2 := by
  rw [maskOp_eq_iff, BitVec.toNat_ofNat]; omega

theorem selects_get_iff (c : CmdWord) :
    c &&& 0xF000FFFF#32 = 0x30000000#32 ↔ c.toNat / 2 ^ 28 = 3 ∧ c.toNat % 2 ^ 16 = 0 := by
  rw [maskOpValue_eq_iff, BitVec.toNat_ofNat]; omega

theorem selects_scanrd_iff (c : CmdWord) :
    c &&& 0xF000FFFF#32 = 0x40000000#32 ↔ c.toNat / 2 ^ 28 = 4 ∧ c.toNat % 2 ^ 16 = 0 := by
  rw [maskOpValue_eq_iff, BitVec.toNat_ofNat]; omega

theorem selects_showFb_iff (c : CmdWord) :
    c &&& 0xFFFFFFFF#32 = 0x50000000#32 ↔ c.toNat / 2 ^ 28 = 5 ∧ c.toNat % 2 ^ 28 = 0 := by
  rw [maskAll, ← BitVec.toNat_inj, BitVec.toNat_ofNat]; omega

/-- No row of the opcode map selects a word exactly when it is none of the five commands (R42, R44). -/
theorem no_row_selects_iff (c : CmdWord) :
    (∀ r ∈ opcodeMap, c &&& r.mask ≠ r.pattern) ↔ ∃ e, decode c = .error e := by
  rw [exists_decode_error_iff, ← selects_init_iff, ← selects_set_iff, ← selects_get_iff, ← selects_scanrd_iff,
    ← selects_showFb_iff]
  simp [opcodeMap, rowInit, rowSet, rowGet, rowScanrd, rowShow]

/-- Settles O4: the same words as numbers on both sides, and each operand is its field. -/
theorem commandWordsFollowTheOpcodeMap : Obligations.CommandWordsFollowTheOpcodeMap := by
  intro c
  refine ⟨(exists_decode_init_iff c).trans (selects_init_iff c).symm,
    (exists_decode_set_iff c).trans (selects_set_iff c).symm, (exists_decode_get_iff c).trans (selects_get_iff c).symm,
    (exists_decode_scanrd_iff c).trans (selects_scanrd_iff c).symm,
    (decode_showFb_iff c).trans (selects_showFb_iff c).symm, (no_row_selects_iff c).symm, ?_, ?_, ?_, ?_⟩
  · intro r k f h
    cases decode_ok c _ h
    exact ⟨fieldRow_toNat c, fieldCol_toNat c, fieldValue_toNat c⟩
  · intro r k v h
    cases decode_ok c _ h
    exact ⟨fieldRow_toNat c, fieldCol_toNat c, fieldValue_toNat c⟩
  · intro r k h
    cases decode_ok c _ h
    exact ⟨fieldRow_toNat c, fieldCol_toNat c⟩
  · intro k h
    cases decode_ok c _ h
    simpa [fieldRow_toNat, fieldCol_toNat] using fieldK_eq c

/-! ### Response and transmission words -/

theorem code_toNat_le (e : Status) : e.code.toNat ≤ 7 := by
  cases e <;> decide

theorem toWord_toNat (r : Response) : r.toWord.toNat = r.status.code.toNat * 2 ^ 16 + r.data.toNat := by
  simp only [Response.toWord, toNat_append_field, BitVec.toNat_ofNat]
  omega

/-- Settles O6: the word is `STATUS * 2^16 + DATA` (R45). -/
theorem responseWordHoldsStatusAndData : Obligations.ResponseWordHoldsStatusAndData := by
  refine ⟨fun r => ?_, by decide⟩
  have hcode := code_toNat_le r.status
  have hdata := r.data.isLt
  rw [toWord_toNat]
  refine ⟨?_, ?_, ?_, hcode⟩ <;> omega

/-- The header and a value of the field fit the 16 bits of a word (R5, R48). -/
theorem txWord_toNat {p : Params} (hp : p.Admissible) {v : Pixel} (hv : v.toNat < 2 ^ p.w) :
    (txWord p v).toNat = p.hdr * 2 ^ p.w + v.toNat := by
  have hw : 1 ≤ p.w ∧ p.w ≤ 15 := by simpa [Params.widthOk] using hp.width
  have hhdr : p.hdr < 2 ^ (16 - p.w) := by simpa [Params.headerOk] using hp.header
  have hfit : p.hdr * 2 ^ p.w + v.toNat < 2 ^ 16 :=
    calc p.hdr * 2 ^ p.w + v.toNat
      _ < (p.hdr + 1) * 2 ^ p.w := by rw [Nat.add_one_mul]; omega
      _ ≤ 2 ^ (16 - p.w) * 2 ^ p.w := Nat.mul_le_mul_right _ hhdr
      _ = 2 ^ 16 := by rw [← pow_add, Nat.sub_add_cancel (by omega)]
  rw [txWord, Nat.mod_eq_of_lt hv, BitVec.toNat_ofNat, Nat.mod_eq_of_lt hfit]

/-- Settles O7: two words with the same header differ by their values. -/
theorem transmissionWordHoldsHeaderAndIntensity : Obligations.TransmissionWordHoldsHeaderAndIntensity := by
  intro p hp
  have hmax : p.maxIntensity < 2 ^ p.w := by simpa [Params.intensityOk] using hp.intensity
  refine ⟨fun v hv => txWord_toNat hp (hv.trans_lt hmax), fun v u hv hu h => BitVec.eq_of_toNat_eq ?_⟩
  have hwords : (txWord p v).toNat = (txWord p u).toNat := congrArg BitVec.toNat h
  rw [txWord_toNat hp hv, txWord_toNat hp hu] at hwords
  exact Nat.add_left_cancel hwords

end Sys2Proof

/-! Proofs for 30_encoding.md: the command port and the line and delay ports in one step (R47, R50). -/
namespace Sys2Proof.Machine

open Sys2Proof.Config (Params)

/-! ### The command port in Idle -/

section Idle

variable {s : State} {i : Signals} {rest : List Signals}

theorem step_of_no_command (hi : s.inputs = i :: rest) (hr : i.rst = false) (hp : s.phase = .idle) (hc : i.cmd = none) :
    step s = .next (s.beginStep rest) := by
  simp [step_idle s i rest hi hr hp, State.listen, hc]

theorem step_of_illegal {c : CmdWord} {e : IllegalWord} (hi : s.inputs = i :: rest) (hr : i.rst = false)
    (hp : s.phase = .idle) (hc : i.cmd = some c) (hd : decode c = .error e) :
    step s = .next ((s.accept rest).raise .illegalCommand 0) := by
  simp [step_idle s i rest hi hr hp, State.listen, hc, State.execute, hd]

theorem step_of_command {c : CmdWord} {instr : Instr} (hi : s.inputs = i :: rest) (hr : i.rst = false)
    (hp : s.phase = .idle) (hc : i.cmd = some c) (hd : decode c = .ok instr) :
    step s = exec instr (s.accept rest) := by
  simp [step_idle s i rest hi hr hp, State.listen, hc, State.execute, hd]

end Idle

/-- Settles O3: the classes are the complement of the five commands, and an illegal word is accepted and answered. -/
theorem illegalWordsAreRefusedAndChangeNothing : Obligations.IllegalWordsAreRefusedAndChangeNothing := by
  refine ⟨fun c => ?classes, ⟨.reservedOpcode 0, by decide⟩, ⟨.reservedOpcode 15, by decide⟩,
    fun s i rest c e hi hr hp hc hd => step_of_illegal hi hr hp hc hd⟩
  case classes =>
    rw [exists_decode_error_iff]
    omega

/-- Settles O8. -/
theorem stepRunsTheDecodedCommand : Obligations.StepRunsTheDecodedCommand :=
  fun _ _ _ _ _ hi hr hp hc hd => step_of_command hi hr hp hc hd

theorem decode_of_decodeTableWord {n w : Nat} {instr : Instr} (h : decodeTableWord n w = some instr) :
    decode (tableWord n w) = .ok instr := by
  unfold decodeTableWord at h
  split at h
  · next i hd => cases h; exact hd
  · cases h

/-- The step after `offerWord` runs the command, whether or not signals were left (log 10). -/
theorem step_offerWord (s : State) {c : CmdWord} {instr : Instr} (hd : decode c = .ok instr) :
    step (s.offerWord c) = exec instr (s.toIdle.accept s.inputs.tail) := by
  unfold State.offerWord
  cases s.inputs with
  | nil => exact step_of_command rfl rfl rfl rfl hd
  | cons i rest => exact step_of_command rfl rfl rfl rfl hd

/-- Settles O9. -/
theorem fetchedWordIsTheNextCommand : Obligations.FetchedWordIsTheNextCommand :=
  fun s _ _ h => step_offerWord s (decode_of_decodeTableWord h)

/-! ### The command port in a SHOW -/

/-- A step outside Idle reads no command: reset ignores it, and the sequencer reads the answers only. -/
theorem step_cmd_irrelevant (s : State) (i : Signals) (rest : List Signals) (offer : Option CmdWord)
    (hp : s.phase ≠ .idle) :
    step { s with inputs := { i with cmd := offer } :: rest } = step { s with inputs := i :: rest } := by
  let offered (j : Signals) : State := { s with inputs := j :: rest }
  by_cases hr : i.rst = true
  · exact (step_reset (offered { i with cmd := offer }) _ rest rfl hr).trans
      (step_reset (offered i) i rest rfl hr).symm
  · rw [Bool.not_eq_true] at hr
    exact (step_busy (offered { i with cmd := offer }) _ rest rfl hr hp).trans
      (step_busy (offered i) i rest rfl hr hp).symm

/-- Settles O11. -/
theorem busyEncoderDoesNotSeeCommands : Obligations.BusyEncoderDoesNotSeeCommands := by
  refine fun s i rest offer hp => ⟨?notReady, step_cmd_irrelevant s i rest offer hp⟩
  case notReady => simp [State.cmdReady, hp]

/-! ### One response for each command -/

/-- A response is given exactly when the transmitter is in Idle, that is when no SHOW is in progress (R47). -/
def RespondsIffIdle (s : State) : Prop :=
  s.rspValid = true ↔ s.phase = .idle

theorem respondsIffIdle_of_idle {s : State} {r : Response} (hr : s.rsp = some r) (hp : s.phase = .idle) :
    RespondsIffIdle s := by
  simp [RespondsIffIdle, State.rspValid, hr, hp]

theorem respondsIffIdle_of_busy {s : State} (hr : s.rsp = none) (hp : s.phase ≠ .idle) : RespondsIffIdle s := by
  simp [RespondsIffIdle, State.rspValid, hr, hp]

/-- Of the commands SHOW alone gives no response yet, and it alone leaves Idle (R70). -/
theorem exec_respondsIffIdle {instr : Instr} {s t : State} (hr : s.rsp = none) (hp : s.phase = .idle)
    (h : exec instr s = .next t) : RespondsIffIdle t := by
  obtain ⟨-, rfl⟩ | ⟨-, hdone⟩ := exec_next instr s t h
  · exact respondsIffIdle_of_idle rfl hp
  · cases hdone with
    | init | set | get | scanrd => exact respondsIffIdle_of_idle rfl hp
    | showFb => exact respondsIffIdle_of_busy hr (by simp)

/-- The advance responds at the end of the last pulse alone (R75). -/
theorem Advanced.respondsIffIdle {p : Params} {s t : State} (h : Advanced p s t) (hr : s.rsp = none) :
    RespondsIffIdle t := by
  have hbusy : s.phase ≠ .idle := h.busy
  cases h with
  | start | inBit | nextBit | inLatch | nextPulse => exact respondsIffIdle_of_busy hr hbusy
  | firstWord | nextWord | toLatch => exact respondsIffIdle_of_busy hr (by simp)
  | finish => exact respondsIffIdle_of_idle rfl rfl

theorem sequence_respondsIffIdle {p : Params} {s t : State} {i : Signals} (hr : s.rsp = none) (hp : s.phase ≠ .idle)
    (h : s.sequence p i = .next t) : RespondsIffIdle t := by
  obtain ⟨o, -, ⟨-, rfl⟩ | ⟨-, ha⟩ | ⟨-, rfl⟩⟩ := sequence_next p s t i h
  case inl => exact respondsIffIdle_of_busy hr hp
  case inr.inl => exact ha.respondsIffIdle (by simpa using hr)
  case inr.inr => exact respondsIffIdle_of_idle rfl rfl

/-- Settles O13: a step begins with no response, and then the command or the sequencer gives one or is in a SHOW. -/
theorem oneResponsePerCommand : Obligations.OneResponsePerCommand := by
  intro s t i rest hi hr hstep
  refine ⟨fun hp hc => ?waits, fun hp hc => ?accepts, fun hp => ?busy⟩
  case waits =>
    rw [step_of_no_command hi hr hp hc] at hstep
    cases hstep
    rfl
  case accepts =>
    obtain ⟨c, hc⟩ := Option.ne_none_iff_exists'.mp hc
    cases hd : decode c with
    | error e =>
      rw [step_of_illegal hi hr hp hc hd] at hstep
      cases hstep
      exact respondsIffIdle_of_idle rfl hp
    | ok instr =>
      rw [step_of_command hi hr hp hc hd] at hstep
      exact exec_respondsIffIdle (s := s.accept rest) rfl hp hstep
  case busy =>
    rw [step_busy s i rest hi hr hp] at hstep
    exact sequence_respondsIffIdle (s := s.beginStep rest) rfl hp hstep

/-! ### The line and delay ports -/

theorem busy_of_currentOp {p : Params} {s : State} {o : Op} (h : s.currentOp p = some o) : s.phase ≠ .idle := by
  intro hp
  simp [State.currentOp, hp] at h

/-- The pin of the line an operation writes carries the level it asks for (R50, log 4). -/
def PinCarries (o : Op) (s : State) : Prop :=
  match o with
  | .setClk v => s.clkO = v
  | .setData v => s.dataO = v
  | .delay _ => True

theorem perform_pinCarries (s : State) (o : Op) (r : Answer) : PinCarries o (s.perform o r) := by
  cases o <;> simp [PinCarries]

/-- The port and both pins are the same in two states. -/
structure SamePorts (s t : State) : Prop where
  op : t.op = s.op
  clkO : t.clkO = s.clkO
  dataO : t.dataO = s.dataO

theorem PinCarries.of_samePorts {o : Op} {s t : State} (h : PinCarries o s) (hs : SamePorts s t) : PinCarries o t := by
  cases o with
  | setClk v => exact hs.clkO.trans h
  | setData v => exact hs.dataO.trans h
  | delay d => trivial

/-- The advance moves the sequencer and leaves the ports to the operation just performed. -/
theorem Advanced.samePorts {p : Params} {s t : State} (h : Advanced p s t) : SamePorts s t := by
  cases h <;> exact ⟨rfl, rfl, rfl⟩

/-- An operation that is not answered yet is a delay (R50). -/
theorem pinCarries_of_answer_eq_none {i : Signals} {o : Op} (h : i.answer o = none) (s : State) : PinCarries o s := by
  cases o with
  | setClk v => cases h
  | setData v => cases h
  | delay d => trivial

/-- A step of a SHOW has the operation of its position on the port, answered or not (R50). -/
theorem sequence_ports {p : Params} {s t : State} {i : Signals} {o : Op} (ho : s.currentOp p = some o)
    (h : s.sequence p i = .next t) : t.op = some o ∧ PinCarries o t := by
  obtain ⟨o', ho', hcases⟩ := sequence_next p s t i h
  obtain rfl : o = o' := Option.some.inj (ho.symm.trans ho')
  obtain ⟨hnone, rfl⟩ | ⟨-, ha⟩ | ⟨-, rfl⟩ := hcases
  · exact ⟨rfl, pinCarries_of_answer_eq_none hnone _⟩
  · exact ⟨ha.samePorts.op.trans (by simp), (perform_pinCarries s o .ok).of_samePorts ha.samePorts⟩
  · exact ⟨State.perform_op s o .fault, (perform_pinCarries s o .fault).of_samePorts ⟨rfl, rfl, rfl⟩⟩

/-- A step whose operation is not answered leaves it on the port (log 12). -/
theorem sequence_of_answer_eq_none {p : Params} {s : State} {i : Signals} {o : Op} (ho : s.currentOp p = some o)
    (h : i.answer o = none) : s.sequence p i = .next { s with op := some o } := by
  simp [State.sequence, ho, h]

/-- Settles O42: the port signals are read off the operation on the port, and a pin is its line's last write. -/
theorem portsCarryTheOperationUntilAnswered : Obligations.PortsCarryTheOperationUntilAnswered := by
  intro s i rest o hi hr ho
  have hstep := step_busy s i rest hi hr (busy_of_currentOp ho)
  have hbegun : (s.beginStep rest).currentOp Config.params = some o := ho
  refine ⟨fun t ht => ?carries, fun d hd hdone => ?waits⟩
  case carries =>
    obtain ⟨hop, hpin⟩ := sequence_ports hbegun (hstep.symm.trans ht)
    refine ⟨?_, ?_, ?_⟩
    · rintro v rfl
      exact ⟨by simp [State.lineWr, hop], by simp [State.lineSel, hop], hpin, by simp [State.dlyReq, hop]⟩
    · rintro v rfl
      exact ⟨by simp [State.lineWr, hop], by simp [State.lineSel, hop], hpin, by simp [State.dlyReq, hop]⟩
    · rintro d rfl
      exact ⟨by simp [State.lineWr, hop], by simp [State.dlyReq, hop], by simp [State.dlyUs, hop]⟩
  case waits =>
    subst hd
    exact hstep.trans (sequence_of_answer_eq_none hbegun (by simp [answer_delay, hdone]))

end Sys2Proof.Machine

/-! Proofs for 30_encoding.md: the pseudo-commands (R52), as the commands they expand to, offered one a step. -/
namespace Sys2Proof.Machine

open Sys2Proof.Config (Params)

/-! ### A list of commands offered one a step -/

theorem run_succ_of_step {s t : State} (h : step s = .next t) (n : Nat) : core.run (n + 1) s = core.run n t := by
  have hcore : core.step s = .next t := h
  simp only [Host.Core.run, hcore]

/-- In Idle the first command offered is executed, and the others are still to come. -/
theorem step_offerAll {s : State} {instr : Instr} {l : List Instr} {rest : List Signals} (hp : s.phase = .idle)
    (hi : s.inputs = offerAll (instr :: l) ++ rest) : step s = exec instr (s.accept (offerAll l ++ rest)) :=
  step_of_command (i := .offer (encode instr)) hi rfl hp rfl (decode_encode instr)

/-! ### CLEAR -/

/-- The pairs of a grid, row-major (R52). -/
def gridPairs (rows cols : Nat) : List (BitVec 6 × BitVec 6) :=
  (List.range rows).flatMap fun r => (List.range cols).map fun c => (BitVec.ofNat 6 r, BitVec.ofNat 6 c)

/-- The SETs of one value to a list of pairs. -/
def setCommands (l : List (BitVec 6 × BitVec 6)) (v : BitVec 16) : List Instr :=
  l.map fun rc => .set rc.1 rc.2 v

theorem clearCommands_eq (rows cols : Nat) (v : BitVec 16) :
    clearCommands rows cols v = setCommands (gridPairs rows cols) v := by
  simp [clearCommands, setCommands, gridPairs, List.map_flatMap, Function.comp_def]

theorem length_gridPairs (rows cols : Nat) : (gridPairs rows cols).length = rows * cols := by
  simp [gridPairs, List.length_flatMap]

/-- A dimension has six bits, so the pairs of the grid are the in-bounds pairs. -/
theorem mem_gridPairs_iff (s : State) (row col : BitVec 6) :
    (row, col) ∈ gridPairs s.rows.toNat s.cols.toNat ↔ s.inBounds row col = true := by
  rw [inBounds_iff]
  simp only [gridPairs, List.mem_flatMap, List.mem_map, List.mem_range, Prod.mk.injEq]
  constructor
  · rintro ⟨r, hr, c, hc, rfl, rfl⟩
    have := s.rows.isLt; have := s.cols.isLt
    simp only [BitVec.toNat_ofNat]
    omega
  · rintro ⟨hrow, hcol⟩
    exact ⟨row.toNat, hrow, col.toNat, hcol, by simp, by simp⟩

theorem exec_set_accepted {s : State} {row col : BitVec 6} {v : BitVec 16} (hcfg : s.cfg = true)
    (hbounds : s.inBounds row col = true) (hv : v.toNat ≤ Config.params.maxIntensity) :
    exec (.set row col v) s = .next ((s.putPixel Config.params row col v).respond 0) :=
  setAt_ok _ _ _ _ _ ((setStatus_ok_iff _ _ _ _ _).mpr ⟨hcfg, hbounds, (valueOk_iff _ _).mpr hv⟩)

/-- A run of SETs of `v`: a cell that held `v` before, or whose pair is in the list, holds `v` after it. -/
theorem run_setCommands {v : BitVec 16} (hv : v.toNat ≤ Config.params.maxIntensity) (rest : List Signals)
    (l : List (BitVec 6 × BitVec 6)) (s : State) (hcfg : s.cfg = true) (hp : s.phase = .idle)
    (hl : ∀ rc ∈ l, s.inBounds rc.1 rc.2 = true) (hi : s.inputs = offerAll (setCommands l v) ++ rest) :
    ∃ t, core.run l.length s = .next t ∧
      (∀ j, s.fb.read j = some v ∨ (∃ rc ∈ l, s.cellIndex rc.1 rc.2 = j) → t.fb.read j = some v) ∧
      t.cfg = true ∧ t.rows = s.rows ∧ t.cols = s.cols ∧ t.phase = .idle ∧ t.inputs = rest := by
  induction l generalizing s with
  | nil => exact ⟨s, rfl, by simp, hcfg, rfl, rfl, hp, hi⟩
  | cons rc l ih =>
    obtain ⟨hrc, hl⟩ := List.forall_mem_cons.mp hl
    let s' : State := s.accept (offerAll (setCommands l v) ++ rest)
    have hstep : step s = .next ((s'.putPixel Config.params rc.1 rc.2 v).respond 0) :=
      (step_offerAll hp hi).trans (exec_set_accepted hcfg hrc hv)
    obtain ⟨t, hrun, hread, hkept⟩ := ih ((s'.putPixel Config.params rc.1 rc.2 v).respond 0) hcfg hp hl rfl
    refine ⟨t, (run_succ_of_step hstep l.length).trans hrun, fun j hj => hread j ?_, hkept⟩
    have hlow : lowBits Config.params.w v = v := lowBits_of_lt _ _ (hv.trans_lt (by decide))
    have hfb : ((s'.putPixel Config.params rc.1 rc.2 v).respond 0).fb = s.fb.write (s.cellIndex rc.1 rc.2) v :=
      congrArg (s.fb.write (s.cellIndex rc.1 rc.2)) hlow
    rw [hfb, Memory.read_write]
    by_cases hjc : j = s.cellIndex rc.1 rc.2
    · exact .inl (if_pos hjc)
    · rw [if_neg hjc]
      refine hj.imp_right ?_
      rintro ⟨rc', hmem, hcell⟩
      obtain rfl | hmem := List.mem_cons.mp hmem
      · exact absurd hcell.symm hjc
      · exact ⟨rc', hmem, hcell⟩

/-- Settles O59: CLEAR is a run of SETs to all in-bounds pairs, and every cell has such a pair (R29). -/
theorem clearWritesEveryCell : Obligations.ClearWritesEveryCell := by
  intro s v rest _ hcfg hp hv hi
  rw [clearCommands_eq] at hi
  obtain ⟨t, hrun, hread, hkept⟩ :=
    run_setCommands hv rest _ s hcfg hp (fun rc hrc => (mem_gridPairs_iff s rc.1 rc.2).mp hrc) hi
  rw [length_gridPairs] at hrun
  refine ⟨t, hrun, fun j hj => hread j (.inr ?_), hkept⟩
  obtain ⟨row, col, hbounds, hcell⟩ := exists_cellIndex_eq hj
  exact ⟨(row, col), (mem_gridPairs_iff s row col).mpr hbounds, hcell⟩

/-! ### SCANALL -/

theorem mapM_eq_some_iff {α β : Type} (f : α → Option β) (l : List α) (ys : List β) :
    l.mapM f = some ys ↔ l.map f = ys.map some := by
  induction l generalizing ys with
  | nil => cases ys <;> simp
  | cons a l ih =>
    cases ys with
    | nil => cases hf : f a <;> simp [List.mapM_cons, hf, Option.bind_eq_some_iff]
    | cons y ys => cases hf : f a <;> simp [List.mapM_cons, hf, Option.bind_eq_some_iff, ← ih, and_comm]

/-- The scan sequence has one element for each cell (R32). -/
theorem length_of_scanSeq {p : Params} {s : State} {pixels : List Pixel} (h : s.scanSeq p = some pixels) :
    pixels.length = s.cells := by
  simpa using (congrArg List.length ((mapM_eq_some_iff _ _ _).mp h)).symm

/-- The `k`-th element of the scan sequence is the pixel of scan index `k` (R32). -/
theorem scanPixel_eq_getElem? {p : Params} {s : State} {pixels : List Pixel} (h : s.scanSeq p = some pixels) {k : Nat}
    (hk : k < s.cells) : s.scanPixel p k = pixels[k]? := by
  have hlt : k < pixels.length := (length_of_scanSeq h).symm ▸ hk
  have hget : ((List.range s.cells).map (s.scanPixel p))[k]? = (pixels.map some)[k]? :=
    congrArg (·[k]?) ((mapM_eq_some_iff _ _ _).mp h)
  simpa [hk, hlt] using hget

theorem exec_scanrd_accepted {s : State} {k : BitVec 12} {v : Pixel} (hcfg : s.cfg = true) (hk : k.toNat < s.cells)
    (hv : s.scanPixel Config.params k.toNat = some v) : exec (.scanrd k) s = .next (s.respond v) := by
  have hread : s.fb.read (s.scanIndex Config.params k.toNat) = some v := hv
  refine (scanrdAt_ok _ _ _ ((scanrdStatus_ok_iff _ _).mpr ⟨hcfg, hk⟩)).trans ?_
  simp [State.respondCell, hread]

/-- A run of SCANRDs of scan indices that can be read: the `j`-th step is answered with the pixel of the `j`-th index. -/
theorem run_scanrdCommands (rest : List Signals) (ks : List (BitVec 12)) (s : State) (hcfg : s.cfg = true)
    (hp : s.phase = .idle)
    (hks : ∀ k ∈ ks, k.toNat < s.cells ∧ ∃ v, s.scanPixel Config.params k.toNat = some v)
    (hi : s.inputs = offerAll (ks.map .scanrd) ++ rest) {j : Nat} {k : BitVec 12} (hj : ks[j]? = some k) {v : Pixel}
    (hv : s.scanPixel Config.params k.toNat = some v) :
    ∃ t, core.run (j + 1) s = .next t ∧ t.rsp = some ⟨.ok, v⟩ ∧ t.fb = s.fb := by
  induction ks generalizing s j with
  | nil => simp at hj
  | cons k₀ ks ih =>
    obtain ⟨⟨hlt, u, hu⟩, hks⟩ := List.forall_mem_cons.mp hks
    let s' : State := (s.accept (offerAll (ks.map .scanrd) ++ rest)).respond u
    have hstep : step s = .next s' := (step_offerAll hp hi).trans (exec_scanrd_accepted hcfg hlt hu)
    rw [run_succ_of_step hstep]
    cases j with
    | zero =>
      obtain rfl : k₀ = k := by simpa using hj
      obtain rfl : u = v := Option.some.inj (hu.symm.trans hv)
      exact ⟨s', rfl, rfl, rfl⟩
    | succ j => exact ih s' hcfg hp hks rfl (by simpa using hj) hv

/-- Settles O60: SCANALL is a run of SCANRDs of all scan indices, in order, each of which fits its field. -/
theorem scanAllYieldsTheScanSequence : Obligations.ScanAllYieldsTheScanSequence := by
  intro s pixels rest k v _ hcfg hp hseq hi hk
  have hfits : ∀ j < s.cells, (BitVec.ofNat 12 j).toNat = j := fun j hj => by
    simpa using hj.trans (cells_lt s)
  have hlt : k < s.cells := length_of_scanSeq hseq ▸ (List.getElem?_eq_some_iff.mp hk).1
  refine run_scanrdCommands rest ((List.range s.cells).map (BitVec.ofNat 12)) s hcfg hp ?readable ?inputs
    (j := k) (k := BitVec.ofNat 12 k) ?index ?pixel
  case readable =>
    simp only [List.mem_map, List.mem_range]
    rintro _ ⟨j, hj, rfl⟩
    rw [hfits j hj]
    have hget : pixels[j]? = some (pixels[j]'((length_of_scanSeq hseq).symm ▸ hj)) := List.getElem?_eq_getElem _
    exact ⟨hj, _, (scanPixel_eq_getElem? hseq hj).trans hget⟩
  case inputs => simpa [scanAllCommands, State.cells, Function.comp_def] using hi
  case index => simp [hlt]
  case pixel => rw [hfits k hlt, scanPixel_eq_getElem? hseq hlt, hk]

end Sys2Proof.Machine

/-! Proofs for 40_framebuffer_commands.md: what the checks of a command decide, in the order of R92, and what INIT, SET, GET
and SCANRD do when their checks pass (R54 to R60). -/
namespace Sys2Proof.Machine

open Sys2Proof.Config (Params)

/-! ### The first complaint decides the status (R92) -/

theorem addressWrong_init_iff (p : Params) (s : State) (rows cols : BitVec 6) (fill : BitVec 16) :
    addressWrong p s (.init rows cols fill) ↔ dimensionsOk p rows cols = false := by
  rw [← Bool.not_eq_true, dimensionsOk_iff, addressWrong]
  omega

theorem addressWrong_set_iff (p : Params) (s : State) (row col : BitVec 6) (value : BitVec 16) :
    addressWrong p s (.set row col value) ↔ s.inBounds row col = false := by
  rw [← Bool.not_eq_true, inBounds_iff, addressWrong]
  omega

theorem addressWrong_get_iff (p : Params) (s : State) (row col : BitVec 6) :
    addressWrong p s (.get row col) ↔ s.inBounds row col = false :=
  addressWrong_set_iff p s row col 0

theorem valueWrong_set_iff (p : Params) (row col : BitVec 6) (value : BitVec 16) :
    valueWrong p (.set row col value) ↔ valueOk p value = false := by
  rw [← Bool.not_eq_true, valueOk_iff, valueWrong, Nat.not_le]

theorem valueWrong_init_iff (p : Params) (rows cols : BitVec 6) (fill : BitVec 16) :
    valueWrong p (.init rows cols fill) ↔ valueOk p fill = false :=
  valueWrong_set_iff p rows cols fill

section Complaints

variable {i : Instr} {s : State}

theorem checkStatus_of_configurationWrong (hc : configurationWrong s i) : checkStatus i s = configurationStatus i := by
  cases i with
  | init => exact if_pos hc
  | set | get | scanrd | showFb =>
    have hcfg : s.cfg = false := hc
    exact if_pos (by rw [hcfg]; rfl)

theorem checkStatus_of_addressWrong (hc : ¬ configurationWrong s i) (ha : addressWrong Config.params s i) :
    checkStatus i s = addressStatus i := by
  cases i with
  | init =>
    have hcfg : s.cfg = false := eq_false_of_ne_true hc
    simp [checkStatus, initStatus, addressStatus, hcfg, (addressWrong_init_iff ..).mp ha]
  | set =>
    have hcfg : s.cfg = true := eq_true_of_ne_false hc
    simp [checkStatus, setStatus, addressStatus, hcfg, (addressWrong_set_iff ..).mp ha]
  | get =>
    have hcfg : s.cfg = true := eq_true_of_ne_false hc
    simp [checkStatus, getStatus, addressStatus, hcfg, (addressWrong_get_iff ..).mp ha]
  | scanrd k =>
    have hcfg : s.cfg = true := eq_true_of_ne_false hc
    have hk : s.cells ≤ k.toNat := ha
    simp [checkStatus, scanrdStatus, addressStatus, hcfg, hk]
  | showFb => exact ha.elim

theorem checkStatus_of_valueWrong (hc : ¬ configurationWrong s i) (ha : ¬ addressWrong Config.params s i)
    (hv : valueWrong Config.params i) : checkStatus i s = .outOfRange := by
  cases i with
  | init =>
    rw [addressWrong_init_iff, Bool.not_eq_false] at ha
    have hcfg : s.cfg = false := eq_false_of_ne_true hc
    simp [checkStatus, initStatus, hcfg, ha, (valueWrong_init_iff ..).mp hv]
  | set =>
    rw [addressWrong_set_iff, Bool.not_eq_false] at ha
    have hcfg : s.cfg = true := eq_true_of_ne_false hc
    simp [checkStatus, setStatus, hcfg, ha, (valueWrong_set_iff ..).mp hv]
  | get | scanrd | showFb => exact hv.elim

theorem checkStatus_of_no_complaint (hc : ¬ configurationWrong s i) (ha : ¬ addressWrong Config.params s i)
    (hv : ¬ valueWrong Config.params i) : checkStatus i s = .ok := by
  cases i with
  | init =>
    rw [addressWrong_init_iff, Bool.not_eq_false] at ha
    rw [valueWrong_init_iff, Bool.not_eq_false] at hv
    exact (initStatus_ok_iff ..).mpr ⟨eq_false_of_ne_true hc, ha, hv⟩
  | set =>
    rw [addressWrong_set_iff, Bool.not_eq_false] at ha
    rw [valueWrong_set_iff, Bool.not_eq_false] at hv
    exact (setStatus_ok_iff ..).mpr ⟨eq_true_of_ne_false hc, ha, hv⟩
  | get =>
    rw [addressWrong_get_iff, Bool.not_eq_false] at ha
    exact (getStatus_ok_iff ..).mpr ⟨eq_true_of_ne_false hc, ha⟩
  | scanrd => exact (scanrdStatus_ok_iff ..).mpr ⟨eq_true_of_ne_false hc, Nat.not_le.mp ha⟩
  | showFb => exact (showStatus_ok_iff s).mpr (eq_true_of_ne_false hc)

/-- The checks of a command look at no line (R54). -/
theorem checkStatus_ne_hardwareFault (i : Instr) (s : State) : checkStatus i s ≠ .hardwareFault := by
  by_cases hc : configurationWrong s i
  · rw [checkStatus_of_configurationWrong hc]
    cases i <;> simp [configurationStatus]
  by_cases ha : addressWrong Config.params s i
  · rw [checkStatus_of_addressWrong hc ha]
    cases i <;> simp [addressStatus]
  by_cases hv : valueWrong Config.params i
  · simp [checkStatus_of_valueWrong hc ha hv]
  · simp [checkStatus_of_no_complaint hc ha hv]

theorem exec_eq_raise {e : Status} (h : checkStatus i s = e) (he : e ≠ .ok) : exec i s = .next (s.raise e 0) := by
  subst h
  exact exec_error i s he

theorem exec_of_configurationWrong (hc : configurationWrong s i) :
    exec i s = .next (s.raise (configurationStatus i) 0) :=
  exec_eq_raise (checkStatus_of_configurationWrong hc) (by cases i <;> simp [configurationStatus])

theorem exec_of_addressWrong (hc : ¬ configurationWrong s i) (ha : addressWrong Config.params s i) :
    exec i s = .next (s.raise (addressStatus i) 0) :=
  exec_eq_raise (checkStatus_of_addressWrong hc ha) (by cases i <;> simp [addressStatus])

theorem exec_of_valueWrong (hc : ¬ configurationWrong s i) (ha : ¬ addressWrong Config.params s i)
    (hv : valueWrong Config.params i) : exec i s = .next (s.raise .outOfRange 0) :=
  exec_eq_raise (checkStatus_of_valueWrong hc ha hv) (by decide)

end Complaints

/-! ### Errors and the lines (R54) -/

/-- A command whose checks pass responds OK, but a SHOW, which begins (R70). -/
theorem Done.rsp_eq {i : Instr} {s t : State} (h : Done i s t) :
    (∃ d, t.rsp = some ⟨.ok, d⟩) ∨ t.rsp = s.rsp := by
  cases h with
  | init | set | get | scanrd => exact .inl ⟨_, rfl⟩
  | showFb => exact .inr rfl

/-- Settles O19: the checks fail, and `raise` writes the response alone; a command whose checks pass responds with no
error. -/
theorem errorsWriteNoState : Obligations.ErrorsWriteNoState := by
  intro i s t r hnone h hr hne
  obtain ⟨-, rfl⟩ | ⟨-, hdone⟩ := exec_next i s t h
  case inl =>
    obtain rfl : ⟨checkStatus i s, 0⟩ = r := Option.some.inj hr
    exact ⟨rfl, rfl⟩
  case inr =>
    obtain ⟨d, hd⟩ | hs := hdone.rsp_eq
    · obtain rfl : ⟨.ok, d⟩ = r := Option.some.inj (hd.symm.trans hr)
      exact absurd rfl hne
    · rw [hs, hnone] at hr
      cases hr

/-- Settles O20: neither an error nor the effect of one of the four commands writes a line or the sequencer. -/
theorem frameBufferCommandsTouchNoLine : Obligations.FrameBufferCommandsTouchNoLine := by
  intro i s t hi h
  obtain ⟨-, rfl⟩ | ⟨-, hdone⟩ := exec_next i s t h
  case inl =>
    exact ⟨⟨rfl, rfl, rfl, rfl⟩, ⟨rfl, rfl, rfl, rfl, rfl, rfl⟩, ⟨rfl, rfl, rfl⟩, _, rfl,
      checkStatus_ne_hardwareFault i s⟩
  case inr =>
    cases hdone with
    | init | set | get | scanrd =>
      exact ⟨⟨rfl, rfl, rfl, rfl⟩, ⟨rfl, rfl, rfl, rfl, rfl, rfl⟩, ⟨rfl, rfl, rfl⟩, _, rfl, by simp⟩
    | showFb => exact absurd rfl hi

/-! ### INIT (R55) -/

/-- A value of the domain is stored whole, for it fits `W` bits (R6, R61). -/
theorem lowBits_of_domain {v : BitVec 16} (hv : v.toNat ≤ Config.params.maxIntensity) :
    lowBits Config.params.w v = v :=
  lowBits_of_lt _ _ (hv.trans_lt (by decide))

/-- Settles O14: the complaints in the order of R92; else a fill of the cells below `rows * cols`. -/
theorem initBuildsTheFrameBuffer : Obligations.InitBuildsTheFrameBuffer := by
  intro s rows cols fill
  refine ⟨fun hcfg => exec_of_configurationWrong hcfg,
    fun hcfg hdim => exec_of_addressWrong (ne_true_of_eq_false hcfg) hdim,
    fun hcfg hr hr' hc hc' hfill => exec_of_valueWrong (ne_true_of_eq_false hcfg) ?legal hfill,
    fun hcfg hr hr' hc hc' hfill => ⟨s.fb.fill fill (rows.toNat * cols.toNat), ?built, fun j hj => ?below,
      fun j hj => ?above⟩⟩
  case legal =>
    rw [addressWrong]
    omega
  case built =>
    have hok : initStatus Config.params s rows cols fill = .ok :=
      (initStatus_ok_iff ..).mpr ⟨hcfg, (dimensionsOk_iff ..).mpr ⟨⟨hr, hr'⟩, hc, hc'⟩, (valueOk_iff ..).mpr hfill⟩
    have hexec := initAt_ok _ _ _ _ _ hok
    rw [State.build, lowBits_of_domain hfill] at hexec
    exact hexec
  case below => rw [Memory.read_fill, if_pos hj]
  case above => rw [Memory.read_fill, if_neg (Nat.not_lt.mpr hj)]

/-! ### SET (R56) -/

/-- Writing the value a cell already holds changes no cell. -/
theorem Memory.write_of_read_eq {m : Memory} (hwf : m.wf) {i : Nat} {v : Pixel} (h : m.read i = some v) :
    m.write i v = m := by
  refine Memory.ext_of_read _ _ (Memory.write_wf m i v hwf) hwf fun k => ?_
  by_cases hk : k = i
  · rw [hk, Memory.read_write_same, h]
  · exact Memory.read_write_other m i k v hk

/-- Settles O15: the complaints in the order of R92; else a write of the one cell. -/
theorem setWritesOneCell : Obligations.SetWritesOneCell := by
  intro s row col value
  refine ⟨fun hcfg => exec_of_configurationWrong hcfg,
    fun hcfg hpair => exec_of_addressWrong (ne_false_of_eq_true hcfg) hpair,
    fun hcfg hrow hcol hvalue => exec_of_valueWrong (ne_false_of_eq_true hcfg) ?inBounds hvalue,
    fun hcfg hrow hcol hvalue => ⟨s.fb.write (s.cellIndex row col) value, ?written, Memory.read_write_same _ _ _,
      fun j hj => Memory.read_write_other _ _ _ _ hj, fun hwf hread => Memory.write_of_read_eq hwf hread⟩⟩
  case inBounds =>
    rw [addressWrong]
    omega
  case written =>
    have hexec := exec_set_accepted hcfg ((inBounds_iff s row col).mpr ⟨hrow, hcol⟩) hvalue
    rw [State.putPixel, lowBits_of_domain hvalue] at hexec
    exact hexec

/-! ### GET (R57) -/

theorem exec_get_of_ok {s : State} {row col : BitVec 6} (hcfg : s.cfg = true) (hbounds : s.inBounds row col = true) :
    exec (.get row col) s = s.respondCell (s.cellIndex row col) :=
  getAt_ok _ _ _ ((getStatus_ok_iff ..).mpr ⟨hcfg, hbounds⟩)

theorem respondCell_of_read {s : State} {i : Nat} {v : Pixel} (h : s.fb.read i = some v) :
    s.respondCell i = .next (s.respond v) := by
  simp [State.respondCell, h]

/-- A command that answers OK is one whose checks pass. -/
theorem done_of_rsp_ok {i : Instr} {s t : State} {d : BitVec 16} (h : exec i s = .next t)
    (hr : t.rsp = some ⟨.ok, d⟩) : checkStatus i s = .ok ∧ Done i s t := by
  obtain ⟨hne, rfl⟩ | hdone := exec_next i s t h
  · exact absurd (congrArg Response.status (Option.some.inj hr)) hne
  · exact hdone

/-- When GET answers OK, and with which value (R57). -/
theorem exec_get_ok_iff {s : State} {row col : BitVec 6} {v : Pixel} :
    exec (.get row col) s = .next { s with rsp := some ⟨.ok, v⟩ } ↔
      s.cfg = true ∧ s.inBounds row col = true ∧ s.fb.read (s.cellIndex row col) = some v := by
  constructor
  · intro h
    obtain ⟨hok, -⟩ := done_of_rsp_ok h rfl
    obtain ⟨hcfg, hbounds⟩ := (getStatus_ok_iff s row col).mp hok
    rw [exec_get_of_ok hcfg hbounds] at h
    obtain ⟨u, hread, ht⟩ := respondCell_next _ _ _ h
    have hrsp := congrArg State.rsp ht
    simp only [State.respond_rsp, Option.some.injEq, Response.mk.injEq, true_and] at hrsp
    exact ⟨hcfg, hbounds, hrsp ▸ hread⟩
  · rintro ⟨hcfg, hbounds, hread⟩
    exact (exec_get_of_ok hcfg hbounds).trans (respondCell_of_read hread)

/-- Settles O16: the complaints in the order of R92; else the read of a cell, which holds a value of the domain (R25.2). -/
theorem getReadsOneCell : Obligations.GetReadsOneCell := by
  intro s row col
  refine ⟨fun hcfg => exec_of_configurationWrong hcfg,
    fun hcfg hpair => exec_of_addressWrong (ne_false_of_eq_true hcfg) hpair,
    fun v hcfg hrow hcol hread => exec_get_ok_iff.mpr ⟨hcfg, (inBounds_iff s row col).mpr ⟨hrow, hcol⟩, hread⟩,
    fun hinv hcfg hrow hcol => ?domain, fun c hop hvalue => ?noGet⟩
  case domain =>
    obtain ⟨-, -, hcells, -⟩ := hinv.configured hcfg
    exact hcells _ (cellIndex_lt s row col ((inBounds_iff s row col).mpr ⟨hrow, hcol⟩))
  case noGet =>
    rw [exists_decode_error_iff]
    omega

/-! ### SCANRD (R58) -/

/-- The pair of a cell (R29). -/
theorem cellIndex_ofNat_div_mod {s : State} {i : Nat} (hi : i < s.cells) :
    s.inBounds (BitVec.ofNat 6 (i / s.cols.toNat)) (BitVec.ofNat 6 (i % s.cols.toNat)) = true ∧
      s.cellIndex (BitVec.ofNat 6 (i / s.cols.toNat)) (BitVec.ofNat 6 (i % s.cols.toNat)) = i := by
  obtain ⟨row, col, hbounds, rfl⟩ := exists_cellIndex_eq hi
  obtain ⟨hrow, hcol⟩ := cellIndex_div_mod hbounds
  simpa [hrow, hcol] using hbounds

/-- Settles O17: the complaints in the order of R92; else the read of a cell. With the default `SCAN` that cell is `k`, whose
pair GET reads. -/
theorem scanrdReadsTheScanSequence : Obligations.ScanrdReadsTheScanSequence := by
  intro s k
  refine ⟨fun hcfg => exec_of_configurationWrong hcfg,
    fun hcfg hk => exec_of_addressWrong (ne_false_of_eq_true hcfg) hk,
    fun v hcfg hk hread => exec_scanrd_accepted hcfg hk hread, fun hcfg hk => ?get, fun c hop hvalue => ?noScanrd⟩
  case get =>
    obtain ⟨hbounds, hcell⟩ := cellIndex_ofNat_div_mod hk
    rw [exec_get_of_ok hcfg hbounds, hcell]
    exact scanrdAt_ok _ _ _ ((scanrdStatus_ok_iff s k).mpr ⟨hcfg, hk⟩)
  case noScanrd =>
    rw [exists_decode_error_iff]
    omega

/-! ### Laws (R59, R60) -/

/-- After a SET answered OK, GET of the same pair returns the value, GET of every other what it returned before. -/
theorem get_after_set {s t : State} {row col : BitVec 6} {v : BitVec 16} (h : exec (.set row col v) s = .next t)
    (hr : t.rsp = some ⟨.ok, 0⟩) :
    exec (.get row col) t = .next { t with rsp := some ⟨.ok, v⟩ } ∧
    ∀ (row' col' : BitVec 6) (u : Pixel), (row', col') ≠ (row, col) →
      exec (.get row' col') s = .next { s with rsp := some ⟨.ok, u⟩ } →
      exec (.get row' col') t = .next { t with rsp := some ⟨.ok, u⟩ } := by
  obtain ⟨hok, hdone⟩ := done_of_rsp_ok h hr
  obtain ⟨hcfg, hbounds, hv⟩ := (setStatus_ok_iff ..).mp hok
  have hlow : lowBits Config.params.w v = v := lowBits_of_domain ((valueOk_iff ..).mp hv)
  cases hdone
  refine ⟨exec_get_ok_iff.mpr ⟨hcfg, hbounds, ?same⟩, fun row' col' u hne hget => ?other⟩
  case same => exact (Memory.read_write_same _ _ _).trans (congrArg some hlow)
  case other =>
    obtain ⟨-, hbounds', hread⟩ := exec_get_ok_iff.mp hget
    have hcell : s.cellIndex row' col' ≠ s.cellIndex row col := fun he =>
      hne (Prod.ext_iff.mpr (cellIndex_injective hbounds' hbounds he))
    exact exec_get_ok_iff.mpr ⟨hcfg, hbounds', (Memory.read_write_other _ _ _ _ hcell).trans hread⟩

/-- After an INIT answered OK, every in-bounds GET returns the fill. -/
theorem get_after_init {s t : State} {rows cols : BitVec 6} {fill : BitVec 16}
    (h : exec (.init rows cols fill) s = .next t) (hr : t.rsp = some ⟨.ok, 0⟩) {row col : BitVec 6}
    (hrow : row.toNat < rows.toNat) (hcol : col.toNat < cols.toNat) :
    exec (.get row col) t = .next { t with rsp := some ⟨.ok, fill⟩ } := by
  obtain ⟨hok, hdone⟩ := done_of_rsp_ok h hr
  obtain ⟨-, -, hfill⟩ := (initStatus_ok_iff ..).mp hok
  have hlow : lowBits Config.params.w fill = fill := lowBits_of_domain ((valueOk_iff ..).mp hfill)
  cases hdone
  have hbounds : ((s.build Config.params rows cols fill).respond 0).inBounds row col = true :=
    (inBounds_iff _ row col).mpr ⟨hrow, hcol⟩
  refine exec_get_ok_iff.mpr ⟨rfl, hbounds, ?_⟩
  rw [State.respond_fb, State.build_fb, Memory.read_fill, hlow]
  exact if_pos (cellIndex_lt _ row col hbounds)

/-- Settles O23: a read after a write, and a read after a fill. -/
theorem getReturnsWhatWasSet : Obligations.GetReturnsWhatWasSet :=
  ⟨fun _ _ _ _ _ h hr => get_after_set h hr, fun _ _ _ _ _ h hr _ _ hrow hcol => get_after_init h hr hrow hcol⟩

/-- Settles O24: a listed pixel has a scan index below `N`, and `N` itself fits the operand of SCANRD. -/
theorem scanrdReturnsTheScanSequence : Obligations.ScanrdReturnsTheScanSequence := by
  intro s pixels hcfg hseq
  refine ⟨length_of_scanSeq hseq, fun k v hk => ?element, ?pastTheEnd⟩
  case element =>
    have hlt : k.toNat < s.cells := length_of_scanSeq hseq ▸ (List.getElem?_eq_some_iff.mp hk).1
    exact exec_scanrd_accepted hcfg hlt ((scanPixel_eq_getElem? hseq hlt).trans hk)
  case pastTheEnd =>
    have hN : (BitVec.ofNat 12 s.cells).toNat = s.cells := by simpa using cells_lt s
    exact exec_of_addressWrong (i := .scanrd _) (ne_false_of_eq_true hcfg) hN.ge

end Sys2Proof.Machine

/-! Proofs for 41_show_transmitter.md sections 1 and 3: the operation lists (R63 to R67) and what a successful SHOW shows on
the lines (R78 to R80, R83). A frame is a list of bits, 16 a pixel, and its operations are five a bit. -/
namespace Sys2Proof.Machine

open Sys2Proof.Config (Params)

/-! ### A list cut into pieces of one length -/

/-- The element `u` of piece `m`, when every piece has `c` elements. -/
theorem getElem?_flatMap_of_length {α β : Type} {f : α → List β} {c : Nat} (hf : ∀ a, (f a).length = c) (l : List α)
    (m : Nat) {u : Nat} (hu : u < c) : (l.flatMap f)[c * m + u]? = l[m]?.bind fun a => (f a)[u]? := by
  induction l generalizing m with
  | nil => simp
  | cons a l ih =>
    cases m with
    | zero => simp [List.getElem?_append, hf, hu]
    | succ m =>
      have hpast : c * (m + 1) + u - c = c * m + u := by rw [Nat.mul_succ]; omega
      have hle : ¬ c * (m + 1) + u < c := by rw [Nat.mul_succ]; omega
      simp [List.getElem?_append, hf, hle, hpast, ih]

theorem length_flatMap_of_length {α β : Type} {f : α → List β} {c : Nat} (hf : ∀ a, (f a).length = c) (l : List α) :
    (l.flatMap f).length = c * l.length := by
  simp [List.length_flatMap, hf, Nat.mul_comm]

/-! ### The operations of a frame, bit by bit -/

/-- The bits of the words of a scan sequence, in the order sent (R49). -/
def frameBits (p : Params) (pixels : List Pixel) : List Bool :=
  pixels.flatMap fun v => bitsFrom (txWord p v) 16

theorem bitsFrom_eq_map (w : TxWord) (n : Nat) :
    bitsFrom w n = (List.range n).map fun j => w.getLsbD (n - 1 - j) := by
  induction n with
  | zero => rfl
  | succ n ih =>
    rw [bitsFrom, ih, List.range_succ_eq_map]
    simp [Nat.sub_sub, Nat.add_comm]

theorem bitsOps_eq_flatMap (p : Params) (w : TxWord) (n : Nat) : bitsOps p w n = (bitsFrom w n).flatMap (bitOps p) := by
  induction n with
  | zero => rfl
  | succ n ih => simp [bitsOps, bitsFrom, ih]

theorem wordsOps_eq_flatMap (p : Params) (pixels : List Pixel) :
    wordsOps p pixels = (frameBits p pixels).flatMap (bitOps p) := by
  simp [wordsOps, wordOps, frameBits, bitsOps_eq_flatMap, List.flatMap_assoc]

theorem pulsesOps_eq_flatten (p : Params) (n : Nat) : pulsesOps p n = (List.replicate n (pulseOps p)).flatten := by
  induction n with
  | zero => rfl
  | succ n ih => simp [pulsesOps, List.replicate_succ, ih]

@[simp] theorem length_bitsFrom (w : TxWord) (n : Nat) : (bitsFrom w n).length = n := by
  simp [bitsFrom_eq_map]

@[simp] theorem length_bitOps (p : Params) (b : Bool) : (bitOps p b).length = 5 := rfl

@[simp] theorem length_pulseOps (p : Params) : (pulseOps p).length = 4 := rfl

@[simp] theorem length_frameBits (p : Params) (pixels : List Pixel) : (frameBits p pixels).length = 16 * pixels.length :=
  length_flatMap_of_length (fun _ => length_bitsFrom _ _) pixels

@[simp] theorem length_wordsOps (p : Params) (pixels : List Pixel) : (wordsOps p pixels).length = 80 * pixels.length := by
  rw [wordsOps_eq_flatMap, length_flatMap_of_length (length_bitOps p), length_frameBits]
  omega

@[simp] theorem length_pulsesOps (p : Params) (n : Nat) : (pulsesOps p n).length = 4 * n := by
  simp [pulsesOps_eq_flatten, Nat.mul_comm]

@[simp] theorem length_latchOps (p : Params) : (latchOps p).length = 2 + 4 * p.latchPulses := by
  simp [latchOps]; omega

@[simp] theorem length_showOps (p : Params) (pixels : List Pixel) :
    (showOps p pixels).length = 4 + 80 * pixels.length + 4 * p.latchPulses := by
  simp [showOps, startOps]; omega

/-- Settles O26: the lists that recur on a number are the lists of a range, and the lengths add up. -/
theorem operationListsAreTheRules : Obligations.OperationListsAreTheRules := by
  intro p
  refine ⟨rfl, fun _ => rfl, fun w => ?word, ?latch, fun pixels => ⟨?words, ?length⟩⟩
  case word => simp [wordOps, bitsOps_eq_flatMap, bitsFrom_eq_map, List.flatMap_map]
  case latch => rw [latchOps, pulsesOps_eq_flatten]; rfl
  case words => rw [showOps, wordsOps, List.flatMap_def]
  case length => rw [length_showOps]; omega

/-! ### The counts of R78 -/

theorem countP_latchOps (p : Params) (q : Op → Bool) :
    (latchOps p).countP q =
      [Op.setData .L, .delay p.tLatchWait].countP q + p.latchPulses * (pulseOps p).countP q := by
  rw [latchOps, List.countP_append, pulsesOps_eq_flatten]
  simp [List.countP_flatten]

/-- A count over a frame's operations, for a property that does not ask for the level of a data write. -/
theorem countP_showOps (p : Params) (pixels : List Pixel) (q : Op → Bool) (hq : q (.setData .H) = q (.setData .L)) :
    (showOps p pixels).countP q =
      startOps.countP q + 16 * pixels.length * (bitOps p false).countP q + (latchOps p).countP q := by
  have hbit : ∀ b, (bitOps p b).countP q = (bitOps p false).countP q := by
    rintro (_ | _) <;> simp [bitOps, levelOfBit, List.countP_cons, hq]
  simp [showOps, wordsOps_eq_flatMap, List.countP_flatMap, hbit, Function.comp_def, Nat.add_assoc]

@[simp] theorem okTrace_nil : okTrace [] = [] := rfl
@[simp] theorem okTrace_cons (o : Op) (ops : List Op) : okTrace (o :: ops) = ⟨o, .ok⟩ :: okTrace ops := rfl
@[simp] theorem okTrace_append (ops more : List Op) : okTrace (ops ++ more) = okTrace ops ++ okTrace more :=
  List.map_append

/-- A list of bits makes one rising edge a bit, from the clock at `L`, and leaves it at `L` (R78). -/
theorem risingEdges_bits (p : Params) (bits : List Bool) (es : List Event) :
    risingEdges .L (okTrace (bits.flatMap (bitOps p)) ++ es) = bits.length + risingEdges .L es := by
  induction bits with
  | nil => simp
  | cons b bits ih =>
    have hbit : ∀ fs, risingEdges .L (okTrace (bitOps p b) ++ fs) = 1 + risingEdges .L fs := fun fs => by
      simp [bitOps, risingEdges, lineAfter, LineState.ofLevel]
    rw [List.flatMap_cons, okTrace_append, List.append_assoc, hbit, ih, List.length_cons]
    omega

theorem risingEdges_of_no_setClk (clk : LineState) (ops : List Op) (h : ∀ v, Op.setClk v ∉ ops) :
    risingEdges clk (okTrace ops) = 0 := by
  induction ops with
  | nil => rfl
  | cons o ops ih =>
    have hops := ih fun v hv => h v (List.mem_cons_of_mem o hv)
    cases o with
    | setClk v => exact absurd List.mem_cons_self (h v)
    | setData v | delay d => exact hops

/-- The latch is writes of the data line and delays (R66). -/
theorem setClk_not_mem_latchOps (p : Params) (v : Level) : Op.setClk v ∉ latchOps p := by
  simp [latchOps, pulsesOps_eq_flatten, pulseOps]

/-- Settles O27: each count is that of two opening operations, of one bit `16 * n` times, and of the latch. -/
theorem showOperationCounts : Obligations.ShowOperationCounts := by
  intro p pixels
  refine ⟨length_showOps p pixels, ?clkWrites, ?dataWrites, ?delays, ?clkHighs, fun clk => ?edges⟩
  case clkWrites =>
    rw [countP_showOps p pixels _ rfl, countP_latchOps]
    simp [startOps, bitOps, pulseOps, Op.isSetClk, List.countP_cons]
    omega
  case dataWrites =>
    rw [countP_showOps p pixels _ rfl, countP_latchOps]
    simp [startOps, bitOps, pulseOps, Op.isSetData, List.countP_cons]
    omega
  case delays =>
    rw [countP_showOps p pixels _ rfl, countP_latchOps]
    simp [startOps, bitOps, pulseOps, Op.isDelay, List.countP_cons]
    omega
  case clkHighs =>
    rw [List.count, countP_showOps p pixels _ rfl, countP_latchOps]
    simp [startOps, bitOps, pulseOps]
  case edges =>
    have hstart : ∀ es, risingEdges clk (okTrace startOps ++ es) = risingEdges .L es := fun es => by
      simp [startOps, risingEdges, lineAfter, LineState.ofLevel]
    rw [showOps, wordsOps_eq_flatMap, List.append_assoc, okTrace_append, hstart, okTrace_append, risingEdges_bits,
      risingEdges_of_no_setClk _ _ (setClk_not_mem_latchOps p), length_frameBits, Nat.add_zero]

/-! ### The bit stream (R79) -/

theorem wordLevels_eq_map (p : Params) (pixels : List Pixel) :
    wordLevels p pixels = (frameBits p pixels).map fun b => .ofLevel (levelOfBit b) := by
  rw [wordLevels, frameBits, List.map_flatMap]

/-- A list of bits is read back from the data line, each at its rising edge, when no edge comes after it. -/
theorem bitStream_bits (p : Params) (bits : List Bool) (data : LineState) (es : List Event)
    (hes : ∀ d, bitStream d es = []) :
    bitStream data (okTrace (bits.flatMap (bitOps p)) ++ es) = bits.map fun b => .ofLevel (levelOfBit b) := by
  induction bits generalizing data with
  | nil => exact hes data
  | cons b bits ih =>
    have hbit : ∀ fs, bitStream data (okTrace (bitOps p b) ++ fs) =
        .ofLevel (levelOfBit b) :: bitStream (.ofLevel (levelOfBit b)) fs := fun fs => rfl
    rw [List.flatMap_cons, okTrace_append, List.append_assoc, hbit, ih, List.map_cons]

theorem bitStream_of_no_setClk (data : LineState) (ops : List Op) (h : ∀ v, Op.setClk v ∉ ops) :
    bitStream data (okTrace ops) = [] := by
  induction ops generalizing data with
  | nil => rfl
  | cons o ops ih =>
    have hops := fun d => ih d fun v hv => h v (List.mem_cons_of_mem o hv)
    cases o with
    | setClk v => exact absurd List.mem_cons_self (h v)
    | setData v => exact hops _
    | delay d => exact hops data

/-- Settles O28: the opening operations and the latch send no bit. -/
theorem bitStreamIsTheWordsMsbFirst : Obligations.BitStreamIsTheWordsMsbFirst := by
  intro p pixels data
  have hstart : ∀ es, bitStream data (okTrace startOps ++ es) = bitStream .L es := fun es => rfl
  rw [showOps, wordsOps_eq_flatMap, List.append_assoc, okTrace_append, hstart, okTrace_append, wordLevels_eq_map]
  exact bitStream_bits p _ _ _ fun d => bitStream_of_no_setClk d _ (setClk_not_mem_latchOps p)

/-! ### The latch (R80) -/

/-- From a low line each pulse makes one transition to either level (R66). -/
theorem dataTransitionsTo_pulsesOps (p : Params) (v : Level) (n : Nat) : dataTransitionsTo v .L (pulsesOps p n) = n := by
  induction n with
  | zero => rfl
  | succ n ih =>
    have hpulse : ∀ ops, dataTransitionsTo v .L (pulseOps p ++ ops) = 1 + dataTransitionsTo v .L ops := fun ops => by
      cases v <;> simp [pulseOps, dataTransitionsTo]
    rw [pulsesOps, hpulse, ih, Nat.add_comm]

/-- Settles O31: the latch drives the data line low and then pulses it; the first write is a transition from `H` only. -/
theorem latchPulsesTheDataLineOnly : Obligations.LatchPulsesTheDataLineOnly := by
  intro p
  refine ⟨setClk_not_mem_latchOps p, length_latchOps p, ?_, ?_, ?_, ?_⟩
  all_goals
    simp [latchOps, dataTransitionsTo, dataTransitionsTo_pulsesOps, Nat.add_comm]

/-! ### The operation at a place of the list -/

/-- The places of the two opening operations (R63). -/
theorem showOps_getElem?_start (p : Params) (pixels : List Pixel) {j : Nat} (hj : j < 2) :
    (showOps p pixels)[j]? = startOps[j]? := by
  rw [showOps, List.append_assoc, List.getElem?_append_left hj]

/-- The places of the frame's bits: operation `u` of bit `m` (R64, R65). -/
theorem showOps_getElem?_bit {p : Params} {pixels : List Pixel} {m : Nat} {b : Bool}
    (hb : (frameBits p pixels)[m]? = some b) {u : Nat} (hu : u < 5) :
    (showOps p pixels)[2 + 5 * m + u]? = (bitOps p b)[u]? := by
  have hm : m < 16 * pixels.length := length_frameBits p pixels ▸ (List.getElem?_eq_some_iff.mp hb).1
  have hlt : 5 * m + u < (wordsOps p pixels).length := by rw [length_wordsOps]; omega
  rw [showOps, List.append_assoc, Nat.add_assoc, List.getElem?_append_right (Nat.le_add_right 2 _)]
  rw [show 2 + (5 * m + u) - startOps.length = 5 * m + u from Nat.add_sub_cancel_left 2 _, List.getElem?_append_left hlt,
    wordsOps_eq_flatMap, getElem?_flatMap_of_length (length_bitOps p) _ m hu, hb, Option.bind_some]

theorem exists_frameBit (p : Params) {pixels : List Pixel} {m : Nat} (hm : m < 16 * pixels.length) :
    ∃ b, (frameBits p pixels)[m]? = some b :=
  ⟨_, List.getElem?_eq_getElem (by rwa [length_frameBits])⟩

/-- The places of the latch (R66). -/
theorem showOps_getElem?_latch (p : Params) (pixels : List Pixel) (x : Nat) :
    (showOps p pixels)[2 + 80 * pixels.length + x]? = (latchOps p)[x]? := by
  have hlen : (startOps ++ wordsOps p pixels).length = 2 + 80 * pixels.length := by
    rw [List.length_append, length_wordsOps]; rfl
  rw [showOps, List.getElem?_append_right (by omega), hlen, Nat.add_sub_cancel_left]

/-- The bit of a frame at a place: bit `15 - b` of the word of pixel `k` (R49). -/
theorem frameBits_getElem? (p : Params) (pixels : List Pixel) (k : Nat) {b : Nat} (hb : b < 16) :
    (frameBits p pixels)[16 * k + b]? = pixels[k]?.map fun v => (txWord p v).getLsbD (15 - b) := by
  rw [frameBits, getElem?_flatMap_of_length (fun _ => length_bitsFrom _ _) pixels k hb]
  cases pixels[k]? <;> simp [bitsFrom_eq_map, hb]

/-- A place is one of the two opening operations, of bit `m`, or of the latch. -/
theorem place_cases (n j : Nat) :
    j < 2 ∨ (∃ m u, m < 16 * n ∧ u < 5 ∧ j = 2 + 5 * m + u) ∨ ∃ x, j = 2 + 80 * n + x := by
  rcases Nat.lt_or_ge j 2 with hstart | hstart
  · exact .inl hstart
  · rcases Nat.lt_or_ge j (2 + 80 * n) with hbit | hlatch
    · exact .inr (.inl ⟨(j - 2) / 5, (j - 2) % 5, by omega, by omega, by omega⟩)
    · exact .inr (.inr ⟨j - (2 + 80 * n), by omega⟩)

/-- The rising edges of a frame are the third operations of its bits (R64). -/
theorem showOps_getElem?_eq_setClk_H_iff (p : Params) (pixels : List Pixel) (j : Nat) :
    (showOps p pixels)[j]? = some (.setClk .H) ↔ ∃ m < 16 * pixels.length, j = 2 + 5 * m + 2 := by
  constructor
  · intro hj
    obtain hstart | ⟨m, u, hm, hu, rfl⟩ | ⟨x, rfl⟩ := place_cases pixels.length j
    · rw [showOps_getElem?_start p pixels hstart] at hj
      have hmem := List.mem_of_getElem? hj
      simp [startOps] at hmem
    · obtain ⟨b, hb⟩ := exists_frameBit p hm
      rw [showOps_getElem?_bit hb hu] at hj
      obtain rfl : u = 2 := by
        interval_cases u <;> simp_all [bitOps]
      exact ⟨m, hm, rfl⟩
    · rw [showOps_getElem?_latch] at hj
      exact absurd (List.mem_of_getElem? hj) (setClk_not_mem_latchOps p .H)
  · rintro ⟨m, hm, rfl⟩
    obtain ⟨b, hb⟩ := exists_frameBit p hm
    exact showOps_getElem?_bit hb (by decide)

/-- Settles O29: the rising edge is the third of its bit's five operations. -/
theorem everyRisingEdgeHasSetupAndHold : Obligations.EveryRisingEdgeHasSetupAndHold := by
  intro p pixels j hj
  obtain ⟨m, hm, rfl⟩ := (showOps_getElem?_eq_setClk_H_iff p pixels j).mp hj
  obtain ⟨b, hb⟩ := exists_frameBit p hm
  have hop : ∀ u < 5, (showOps p pixels)[2 + 5 * m + u]? = (bitOps p b)[u]? := fun _ hu => showOps_getElem?_bit hb hu
  exact ⟨by omega, ⟨levelOfBit b, hop 0 (by decide)⟩, hop 1 (by decide), hop 3 (by decide), hop 4 (by decide)⟩

theorem drop_eq_cons_of_getElem? {α : Type} {l : List α} {n : Nat} {a : α} (h : l[n]? = some a) :
    l.drop n = a :: l.drop (n + 1) := by
  rw [List.drop_eq_getElem?_toList_append, h]
  rfl

theorem take_drop_of_getElem? {α : Type} {l : List α} {n : Nat} {a b c d : α} (ha : l[n]? = some a)
    (hb : l[n + 1]? = some b) (hc : l[n + 2]? = some c) (hd : l[n + 3]? = some d) :
    (l.drop n).take 4 = [a, b, c, d] := by
  rw [drop_eq_cons_of_getElem? ha, drop_eq_cons_of_getElem? hb, drop_eq_cons_of_getElem? hc, drop_eq_cons_of_getElem? hd]
  rfl

/-- Settles O30: the next rising edge is the next bit's, and of the four operations between one writes the data line. -/
theorem oneDataWriteBetweenRisingEdges : Obligations.OneDataWriteBetweenRisingEdges := by
  intro p pixels j k hjk hj hk hbetween
  obtain ⟨m, hm, rfl⟩ := (showOps_getElem?_eq_setClk_H_iff p pixels j).mp hj
  obtain ⟨m', hm', rfl⟩ := (showOps_getElem?_eq_setClk_H_iff p pixels k).mp hk
  obtain rfl : m' = m + 1 := by
    by_contra hne
    refine hbetween (2 + 5 * (m + 1) + 2) (by omega) (by omega) ?_
    exact (showOps_getElem?_eq_setClk_H_iff p pixels _).mpr ⟨m + 1, by omega, rfl⟩
  obtain ⟨b, hb⟩ := exists_frameBit p hm
  obtain ⟨b', hb'⟩ := exists_frameBit p hm'
  have hfour : ((showOps p pixels).drop (2 + 5 * m + 3)).take 4 =
      [.delay p.tHold, .setClk .L, .setData (levelOfBit b'), .delay p.tSetup] :=
    take_drop_of_getElem? (showOps_getElem?_bit hb (u := 3) (by decide)) (showOps_getElem?_bit hb (u := 4) (by decide))
      (showOps_getElem?_bit hb' (u := 0) (by decide)) (showOps_getElem?_bit hb' (u := 1) (by decide))
  rw [List.drop_take, show 2 + 5 * (m + 1) + 2 - (2 + 5 * m + 2 + 1) = 4 by omega, hfour]
  rfl

/-! ### The intensity bits (R83) -/

/-- The bits of a word whose value fits its field: the value below `W`, the header from `W` on (R48). -/
theorem txWord_getLsbD {p : Params} {v : Pixel} (hv : v.toNat < 2 ^ p.w) {i : Nat} (hi : i < 16) :
    (txWord p v).getLsbD i = if i < p.w then v.getLsbD i else p.hdr.testBit (i - p.w) := by
  rw [txWord, Nat.mod_eq_of_lt hv, Nat.mul_comm, BitVec.getLsbD_ofNat, Nat.testBit_two_pow_mul_add _ hv]
  simp [hi, BitVec.getLsbD]

/-- The bit at a place of a frame of `n` equal pixels. -/
theorem frameBits_replicate_getElem? (p : Params) (v : Pixel) {n k b : Nat} (hk : k < n) (hb : b < 16) :
    (frameBits p (List.replicate n v))[16 * k + b]? = some ((txWord p v).getLsbD (15 - b)) := by
  simp [frameBits_getElem? p _ k hb, hk]

/-- Of a bit's operations the first alone depends on the bit (R64). -/
theorem bitOps_getElem?_ne_iff (p : Params) (b b' : Bool) {u : Nat} (hu : u < 5) :
    (bitOps p b)[u]? ≠ (bitOps p b')[u]? ↔ u = 0 ∧ b ≠ b' := by
  match u, hu with
  | 0, _ => cases b <;> cases b' <;> simp [bitOps, levelOfBit]
  | 1, _ | 2, _ | 3, _ | 4, _ => simp [bitOps]

/-- The operations of two frames of one size differ at the data writes of the bits in which the frames differ. -/
theorem showOps_getElem?_ne_iff (p : Params) {xs ys : List Pixel} (hlen : xs.length = ys.length) (j : Nat) :
    (showOps p xs)[j]? ≠ (showOps p ys)[j]? ↔ ∃ m, j = 2 + 5 * m ∧ (frameBits p xs)[m]? ≠ (frameBits p ys)[m]? := by
  constructor
  · intro hne
    obtain hstart | ⟨m, u, hm, hu, rfl⟩ | ⟨x, rfl⟩ := place_cases xs.length j
    · exact absurd ((showOps_getElem?_start p xs hstart).trans (showOps_getElem?_start p ys hstart).symm) hne
    · obtain ⟨b, hb⟩ := exists_frameBit p hm
      obtain ⟨b', hb'⟩ := exists_frameBit p (hlen ▸ hm)
      rw [showOps_getElem?_bit hb hu, showOps_getElem?_bit hb' hu, bitOps_getElem?_ne_iff p b b' hu] at hne
      obtain ⟨rfl, hbits⟩ := hne
      exact ⟨m, rfl, by simpa [hb, hb'] using hbits⟩
    · have hlatch := showOps_getElem?_latch p ys x
      rw [← hlen] at hlatch
      exact absurd ((showOps_getElem?_latch p xs x).trans hlatch.symm) hne
  · rintro ⟨m, rfl, hne⟩
    have hm : m < 16 * xs.length := by
      by_contra hge
      refine hne ?_
      rw [List.getElem?_eq_none (by rw [length_frameBits]; omega),
        List.getElem?_eq_none (by rw [length_frameBits]; omega)]
    obtain ⟨b, hb⟩ := exists_frameBit p hm
    obtain ⟨b', hb'⟩ := exists_frameBit p (hlen ▸ hm)
    rw [← Nat.add_zero (2 + 5 * m), showOps_getElem?_bit hb (by decide), showOps_getElem?_bit hb' (by decide)]
    exact (bitOps_getElem?_ne_iff p b b' (by decide)).mpr ⟨rfl, by simpa [hb, hb'] using hne⟩

/-- In a frame of equal pixels the data write of bit `i` of pixel `k` carries that bit of the pixel's word. -/
theorem showOps_replicate_getElem?_dataWrite (p : Params) (v : Pixel) {n k i : Nat} (hk : k < n) (hi : i < 16) :
    (showOps p (List.replicate n v))[2 + 80 * k + 5 * (15 - i)]? =
      some (.setData (levelOfBit ((txWord p v).getLsbD i))) := by
  have hb := frameBits_replicate_getElem? p v hk (b := 15 - i) (by omega)
  rw [show 15 - (15 - i) = i by omega] at hb
  rw [show 2 + 80 * k + 5 * (15 - i) = 2 + 5 * (16 * k + (15 - i)) + 0 by omega]
  exact showOps_getElem?_bit hb (by decide)

/-- The operations of two frames of `n` equal pixels differ at the data writes of the bits in which the words differ. -/
theorem showOps_replicate_getElem?_ne_iff (p : Params) (v u : Pixel) (n j : Nat) :
    (showOps p (List.replicate n v))[j]? ≠ (showOps p (List.replicate n u))[j]? ↔
      ∃ k i, k < n ∧ i < 16 ∧ (txWord p v).getLsbD i ≠ (txWord p u).getLsbD i ∧ j = 2 + 80 * k + 5 * (15 - i) := by
  constructor
  · intro hne
    obtain ⟨m, rfl, hbit⟩ := (showOps_getElem?_ne_iff p (by simp) j).mp hne
    obtain ⟨k, b, hb, rfl⟩ : ∃ k b, b < 16 ∧ m = 16 * k + b := ⟨m / 16, m % 16, by omega, by omega⟩
    have hk : k < n := by
      by_contra hge
      simp [frameBits_getElem? p _ k hb, hge] at hbit
    rw [frameBits_replicate_getElem? p v hk hb, frameBits_replicate_getElem? p u hk hb] at hbit
    exact ⟨k, 15 - b, hk, by omega, by simpa using hbit, by omega⟩
  · rintro ⟨k, i, hk, hi, hbit, rfl⟩
    rw [showOps_replicate_getElem?_dataWrite p v hk hi, showOps_replicate_getElem?_dataWrite p u hk hi]
    cases hv : (txWord p v).getLsbD i <;> cases hu : (txWord p u).getLsbD i <;> simp_all [levelOfBit]

section Intensity

variable {p : Params} (hp : p.Admissible)
include hp

/-- The largest intensity fits the intensity field (R6), and so the 16 bits of a cell (R5). -/
theorem toNat_maxIntensity :
    (BitVec.ofNat 16 p.maxIntensity).toNat = p.maxIntensity ∧ p.maxIntensity < 2 ^ p.w ∧ p.w < 16 := by
  have hw : 1 ≤ p.w ∧ p.w ≤ 15 := by simpa [Params.widthOk] using hp.width
  have hmax : p.maxIntensity < 2 ^ p.w := by simpa [Params.intensityOk] using hp.intensity
  have hpow : 2 ^ p.w ≤ 2 ^ 16 := Nat.pow_le_pow_right (by decide) (by omega)
  exact ⟨by rw [BitVec.toNat_ofNat, Nat.mod_eq_of_lt (hmax.trans_le hpow)], hmax, by omega⟩

theorem txWord_zero_getLsbD {i : Nat} (hi : i < p.w) : (txWord p 0).getLsbD i = false := by
  obtain ⟨-, -, hw⟩ := toNat_maxIntensity hp
  rw [txWord_getLsbD (by simp) (hi.trans hw)]
  simp [hi]

theorem txWord_maxIntensity_getLsbD {i : Nat} (hi : i < p.w) :
    (txWord p (BitVec.ofNat 16 p.maxIntensity)).getLsbD i = p.maxIntensity.testBit i := by
  obtain ⟨hnat, hmax, hw⟩ := toNat_maxIntensity hp
  rw [txWord_getLsbD (by rwa [hnat]) (hi.trans hw), if_pos hi, BitVec.getLsbD, hnat]

/-- The words of an all-zero and of an all-maximum frame differ at the intensity bits. -/
theorem txWord_zero_getLsbD_ne_iff {i : Nat} (hi : i < 16) :
    (txWord p 0).getLsbD i ≠ (txWord p (BitVec.ofNat 16 p.maxIntensity)).getLsbD i ↔
      i < p.w ∧ p.maxIntensity.testBit i = true := by
  by_cases hfield : i < p.w
  case pos =>
    rw [txWord_zero_getLsbD hp hfield, txWord_maxIntensity_getLsbD hp hfield]
    simp [hfield]
  case neg =>
    obtain ⟨hnat, hmax, -⟩ := toNat_maxIntensity hp
    rw [txWord_getLsbD (by simp) hi, txWord_getLsbD (by rwa [hnat]) hi]
    simp [hfield]

end Intensity

/-- Settles O33: the words of the two frames differ at the intensity bits, and the word of value 0 without a header is 0. -/
theorem onlyTheIntensityFieldVaries : Obligations.OnlyTheIntensityFieldVaries := by
  intro p n hp
  obtain ⟨-, -, hw⟩ := toNat_maxIntensity hp
  refine ⟨by simp, fun j => ?differ, fun k i hk hi hbit => ⟨?low, ?high⟩, fun hhdr => ?zeros⟩
  case differ =>
    rw [showOps_replicate_getElem?_ne_iff]
    constructor
    · rintro ⟨k, i, hk, hi, hne, hj⟩
      obtain ⟨hfield, hbit⟩ := (txWord_zero_getLsbD_ne_iff hp hi).mp hne
      exact ⟨k, i, hk, hfield, hbit, hj⟩
    · rintro ⟨k, i, hk, hfield, hbit, hj⟩
      have hi := hfield.trans hw
      exact ⟨k, i, hk, hi, (txWord_zero_getLsbD_ne_iff hp hi).mpr ⟨hfield, hbit⟩, hj⟩
  case low =>
    rw [showOps_replicate_getElem?_dataWrite p 0 hk (hi.trans hw), txWord_zero_getLsbD hp hi]
    rfl
  case high =>
    rw [showOps_replicate_getElem?_dataWrite p _ hk (hi.trans hw), txWord_maxIntensity_getLsbD hp hi, hbit]
    rfl
  case zeros =>
    have hword : txWord p 0 = 0 := by simp [txWord, hhdr]
    have hbits : bitsFrom 0 16 = List.replicate 16 false := rfl
    rw [wordLevels_eq_map, frameBits, List.flatMap_replicate, hword, hbits, List.flatten_replicate_replicate,
      List.map_replicate, Nat.mul_comm]
    rfl

end Sys2Proof.Machine

/-! Proofs for 41_show_transmitter.md section 2: one step of a SHOW (R68, R70 to R76). The position selects the operation, and
the answer decides between the advance and the abort. -/
namespace Sys2Proof.Machine

open Sys2Proof.Config (Params)

/-! ### A step of the sequencer, by its answer -/

theorem enterWord_of_scanPixel {p : Params} {s : State} {k : BitVec 12} {v : Pixel} (hv : s.scanPixel p k.toNat = some v) :
    s.enterWord p k = .next (s.toWord k (txWord p v)) := by
  rw [State.enterWord, hv]

/-- `Advanced` holds of the advance's own result only: with `advance_next`, it is the advance. -/
theorem Advanced.advance_eq {p : Params} {s t : State} (h : Advanced p s t) : s.advance p = .next t := by
  cases h with
  | start hph h0 => simp [State.advance, hph, h0]
  | firstWord hph h0 v hv =>
    simp only [State.advance, hph, h0, if_false]
    exact enterWord_of_scanPixel hv
  | inBit hph h4 => simp [State.advance, hph, h4]
  | nextBit hph h4 hb => simp [State.advance, hph, Nat.not_lt.mpr h4, State.endBit, hb]
  | nextWord hph h4 hb hw v hv =>
    simp only [State.advance, hph, Nat.not_lt.mpr h4, State.endBit, hb, Nat.lt_irrefl, hw, if_false, if_true]
    exact enterWord_of_scanPixel hv
  | toLatch hph h4 hb hw => simp [State.advance, hph, Nat.not_lt.mpr h4, State.endBit, hb, Nat.not_lt.mpr hw]
  | inLatch hph h5 => simp [State.advance, hph, h5]
  | nextPulse hph h5 hp => simp [State.advance, hph, Nat.not_lt.mpr h5, State.endPulse, hp]
  | finish hph h5 hp => simp [State.advance, hph, Nat.not_lt.mpr h5, State.endPulse, Nat.not_lt.mpr hp]

section Step

variable {s : State} {i : Signals} {rest : List Signals} {o : Op} (hi : s.inputs = i :: rest) (hr : i.rst = false)
  (ho : s.currentOp Config.params = some o)
include hi hr ho

theorem step_of_ok (ha : i.answer o = some .ok) {t : State}
    (ht : Advanced Config.params ((s.beginStep rest).perform o .ok) t) : step s = .next t := by
  have hop : (s.beginStep rest).currentOp Config.params = some o := ho
  rw [step_busy s i rest hi hr (busy_of_currentOp ho), State.sequence]
  simp only [hop, ha]
  exact ht.advance_eq

theorem step_of_fault (ha : i.answer o = some .fault) :
    step s = .next (((s.beginStep rest).perform o .fault).abort o) := by
  have hop : (s.beginStep rest).currentOp Config.params = some o := ho
  rw [step_busy s i rest hi hr (busy_of_currentOp ho), State.sequence]
  simp only [hop, ha]

theorem step_of_no_answer (ha : i.answer o = none) : step s = .next { s.beginStep rest with op := some o } := by
  have hop : (s.beginStep rest).currentOp Config.params = some o := ho
  rw [step_busy s i rest hi hr (busy_of_currentOp ho), sequence_of_answer_eq_none hop ha]

/-- Within a bit and within a pulse an operation answered `ok` moves on to the next sub-step (R72, R74). -/
theorem step_to_next_sub (ha : i.answer o = some .ok) {k : BitVec 3} (hsub : s.sub = k)
    (hmore : s.phase = .word ∧ k.toNat < 4 ∨ s.phase = .latch ∧ k.toNat < 5) :
    step s = .next { (s.beginStep rest).perform o .ok with sub := k + 1 } := by
  subst hsub
  have hnext : ((s.beginStep rest).perform o .ok).sub = s.sub := by simp
  rw [← hnext]
  obtain ⟨hph, hlt⟩ | ⟨hph, hlt⟩ := hmore
  · exact step_of_ok hi hr ho ha (.inBit (by simpa using hph) (by simpa using hlt))
  · exact step_of_ok hi hr ho ha (.inLatch (by simpa using hph) (by simpa using hlt))

end Step

/-! ### Answers -/

section Answers

variable {i : Signals}

theorem answer_setClk_ok (h : i.lineFault = false) (v : Level) : i.answer (.setClk v) = some .ok := by
  simp [answer_setClk, h]

theorem answer_setData_ok (h : i.lineFault = false) (v : Level) : i.answer (.setData v) = some .ok := by
  simp [answer_setData, h]

theorem answer_delay_ok (hdone : i.dlyDone = true) (hf : i.dlyFault = false) (d : Nat) :
    i.answer (.delay d) = some .ok := by
  simp [answer_delay, hdone, hf]

end Answers

/-! ### The phases -/

theorem exec_showFb_of_configured {s : State} (hcfg : s.cfg = true) : exec .showFb s = .next s.toStart :=
  showAt_ok s ((showStatus_ok_iff s).mpr hcfg)

/-- Settles O34. -/
theorem showLeavesIdle : Obligations.ShowLeavesIdle :=
  fun _ => ⟨fun hcfg => exec_showFb_of_configured hcfg, fun hcfg => exec_of_configurationWrong hcfg⟩

/-- Settles O35: a line is at the level written or unknown, by its answer. -/
theorem answeredOperationWritesItsLineOnly : Obligations.AnsweredOperationWritesItsLineOnly := by
  intro s r
  refine ⟨fun v => ?_, fun v => ?_, fun d => rfl⟩
  · cases r <;> rfl
  · cases r <;> rfl

/-- Settles O36. -/
theorem startPhaseForcesBothLinesLow : Obligations.StartPhaseForcesBothLinesLow := by
  intro s i rest hi hr hf hph
  refine ⟨fun hsub => ?clock, fun v hsub hread => ?data⟩
  case clock =>
    have hop : s.currentOp Config.params = some (.setClk .L) := by simp [State.currentOp, hph, hsub, startOp]
    exact step_of_ok hi hr hop (answer_setClk_ok hf _) (.start hph (by simp [hsub]))
  case data =>
    have hop : s.currentOp Config.params = some (.setData .L) := by simp [State.currentOp, hph, hsub, startOp]
    refine step_of_ok hi hr hop (answer_setData_ok hf _) ?_
    exact .firstWord (s := (s.beginStep rest).perform (.setData .L) .ok) hph (by simp [hsub]) v hread

/-- Settles O37. -/
theorem wordPhaseSendsTheBit : Obligations.WordPhaseSendsTheBit := by
  intro s i rest hi hr hph
  have hop : s.currentOp Config.params = wordOp Config.params (s.word.getLsbD s.bidx.toNat) s.sub.toNat := by
    simp [State.currentOp, hph]
  refine ⟨fun hsub hf => ?_, fun hsub hdone hf => ?_, fun hsub hf => ?_, fun hsub hdone hf => ?_⟩ <;> rw [hsub] at hop
  · exact step_to_next_sub hi hr hop (answer_setData_ok hf _) hsub (.inl ⟨hph, by decide⟩)
  · exact step_to_next_sub hi hr hop (answer_delay_ok hdone hf _) hsub (.inl ⟨hph, by decide⟩)
  · exact step_to_next_sub hi hr hop (answer_setClk_ok hf _) hsub (.inl ⟨hph, by decide⟩)
  · exact step_to_next_sub hi hr hop (answer_delay_ok hdone hf _) hsub (.inl ⟨hph, by decide⟩)

/-- Settles O38: the bit that ends is not the last of its word, or the word is not the last, or both are. -/
theorem endOfABitAdvances : Obligations.EndOfABitAdvances := by
  intro s i rest hi hr hf hph hsub
  have hop : s.currentOp Config.params = some (.setClk .L) := by simp [State.currentOp, hph, hsub, wordOp]
  have hend : 4 ≤ s.sub.toNat := by simp [hsub]
  have hstep {t : State} := step_of_ok hi hr hop (answer_setClk_ok hf _) (t := t)
  refine ⟨fun hb => ?_, fun v hb hw hread => ?_, fun hb hw => ?_⟩
  · exact hstep (.nextBit hph hend hb)
  · have hnext : (s.widx + 1).toNat = s.widx.toNat + 1 := by
      have hcells : s.cells ≤ 63 * 63 := cells_le s
      have hw' : s.widx.toNat + 1 < s.cells := hw
      bv_omega
    refine hstep (.nextWord (s := (s.beginStep rest).perform (.setClk .L) .ok) hph hend (by simp [hb]) hw v ?_)
    exact (congrArg (s.scanPixel Config.params) hnext).trans hread
  · exact hstep (.toLatch hph hend (by simp [hb]) hw)

/-- Settles O39. -/
theorem latchPhasePulsesData : Obligations.LatchPhasePulsesData := by
  intro s i rest hi hr hph
  have hop : s.currentOp Config.params = latchOp Config.params s.sub.toNat := by simp [State.currentOp, hph]
  refine ⟨fun hsub hf => ?_, fun hsub hdone hf => ?_, fun hsub hf => ?_, fun hsub hdone hf => ?_, fun hsub hf => ?_⟩ <;>
    rw [hsub] at hop
  · exact step_to_next_sub hi hr hop (answer_setData_ok hf _) hsub (.inr ⟨hph, by decide⟩)
  · exact step_to_next_sub hi hr hop (answer_delay_ok hdone hf _) hsub (.inr ⟨hph, by decide⟩)
  · exact step_to_next_sub hi hr hop (answer_setData_ok hf _) hsub (.inr ⟨hph, by decide⟩)
  · exact step_to_next_sub hi hr hop (answer_delay_ok hdone hf _) hsub (.inr ⟨hph, by decide⟩)
  · exact step_to_next_sub hi hr hop (answer_setData_ok hf _) hsub (.inr ⟨hph, by decide⟩)

/-- Settles O40. -/
theorem endOfTheLatchReturnsToIdle : Obligations.EndOfTheLatchReturnsToIdle := by
  intro s i rest hi hr hdone hf hph hsub
  have hop : s.currentOp Config.params = some (.delay Config.params.tLatchLo) := by
    simp [State.currentOp, hph, hsub, latchOp]
  have hend : 5 ≤ s.sub.toNat := by simp [hsub]
  have hstep {t : State} := step_of_ok hi hr hop (answer_delay_ok hdone hf _) (t := t)
  exact ⟨fun hmore => hstep (.nextPulse hph hend hmore), fun hlast => hstep (.finish hph hend hlast)⟩

/-- Settles O41: the abort writes the Idle zeros and the response, and the line is the faulted operation's (R68). -/
theorem faultAbortsTheShow : Obligations.FaultAbortsTheShow := by
  intro s i rest o hi hr ho ha
  refine ⟨_, step_of_fault hi hr ho ha, ?clock, ?data, ?delay, ⟨rfl, rfl, rfl, rfl, rfl, rfl⟩, ?frame, ?trace, ?inputs⟩
  case clock => rintro v rfl; exact ⟨rfl, rfl, rfl, rfl, rfl⟩
  case data => rintro v rfl; exact ⟨rfl, rfl, rfl, rfl, rfl⟩
  case delay => rintro d rfl; exact ⟨rfl, rfl, rfl, rfl, rfl⟩
  case frame => simp [State.abort]
  case trace => simp [State.abort]
  case inputs => simp [State.abort]

end Sys2Proof.Machine

/-! Proofs for 41_show_transmitter.md section 2, R77: a sequencer position is a place of `ShowOps`, and an operation answered
`ok` moves the sequencer to the next place. -/
namespace Sys2Proof.Machine

open Sys2Proof.Config (Params)

/-! ### A position's operation -/

theorem startOp_eq_getElem? (sub : Nat) : startOp sub = startOps[sub]? := by
  match sub with
  | 0 | 1 => rfl
  | n + 2 => rfl

theorem wordOp_eq_getElem? (p : Params) (b : Bool) (sub : Nat) : wordOp p b sub = (bitOps p b)[sub]? := by
  match sub with
  | 0 | 1 | 2 | 3 | 4 => rfl
  | n + 5 => rfl

/-- Before the pulses the sub-step is the place in the latch; from then on it is, with the pulse, the place (R74, R77). -/
theorem latchOp_eq_getElem? (p : Params) (sub : Nat) :
    latchOp p sub = ([Op.setData .L, .delay p.tLatchWait] ++ pulseOps p)[sub]? := by
  match sub with
  | 0 | 1 | 2 | 3 | 4 | 5 => rfl
  | n + 6 => rfl

/-- The places of the latch before its pulses (R66). -/
theorem latchOps_getElem?_wait (p : Params) {u : Nat} (hu : u < 2) :
    (latchOps p)[u]? = [Op.setData .L, .delay p.tLatchWait][u]? :=
  List.getElem?_append_left hu

/-- The places of the latch's pulses: operation `u` of pulse `m` (R66). -/
theorem latchOps_getElem?_pulse (p : Params) {m u : Nat} (hm : m < p.latchPulses) (hu : u < 4) :
    (latchOps p)[2 + (4 * m + u)]? = (pulseOps p)[u]? := by
  have hpulses : pulsesOps p p.latchPulses = (List.range p.latchPulses).flatMap fun _ => pulseOps p := by
    simp [pulsesOps_eq_flatten, List.flatMap_def]
  rw [latchOps, List.getElem?_append_right (Nat.le_add_right 2 _)]
  rw [show 2 + (4 * m + u) - [Op.setData .L, Op.delay p.tLatchWait].length = 4 * m + u from
    Nat.add_sub_cancel_left 2 _, hpulses, getElem?_flatMap_of_length (fun _ => length_pulseOps p) _ m hu]
  simp [hm]

/-! ### The place of a position (R77's table) -/

section Index

variable {s : State} (n : Nat)

theorem operationIndex_of_start (hph : s.phase = .start) : operationIndex n s = s.sub.toNat := by
  simp [operationIndex, hph]

theorem operationIndex_of_word (hph : s.phase = .word) :
    operationIndex n s = 2 + 80 * s.widx.toNat + 5 * (15 - s.bidx.toNat) + s.sub.toNat := by
  simp [operationIndex, hph]

/-- Before the pulses `PCNT` is 0, so the place in the latch is given by pulse and sub-step alike. -/
theorem operationIndex_of_latch (hph : s.phase = .latch) (hzero : s.sub.toNat < 2 → s.pcnt = 0) :
    operationIndex n s = 2 + 80 * n + (4 * s.pcnt.toNat + s.sub.toNat) := by
  simp only [operationIndex, hph]
  split
  case isTrue hwait => simp [hzero hwait]
  case isFalse hpulse => omega

end Index

section Positions

variable {p : Params} {s : State} {pixels : List Pixel}

theorem currentOp_of_start (hph : s.phase = .start) : s.currentOp p = startOps[s.sub.toNat]? := by
  simp [State.currentOp, hph, startOp_eq_getElem?]

theorem currentOp_of_word (hph : s.phase = .word) :
    s.currentOp p = (bitOps p (s.word.getLsbD s.bidx.toNat))[s.sub.toNat]? := by
  simp [State.currentOp, hph, wordOp_eq_getElem?]

theorem currentOp_of_latch (hph : s.phase = .latch) :
    s.currentOp p = ([Op.setData .L, .delay p.tLatchWait] ++ pulseOps p)[s.sub.toNat]? := by
  simp only [State.currentOp, hph, latchOp_eq_getElem?]

/-- A busy encoder's position selects an operation (R18). -/
theorem exists_currentOp (h : EncoderInv p s) (hp : s.phase ≠ .idle) : ∃ o, s.currentOp p = some o := by
  cases hph : s.phase with
  | idle => exact absurd hph hp
  | start =>
    obtain ⟨-, -, hsub, -⟩ := (invSequencer_of_start hph).mp h.sequencer
    exact ⟨_, (currentOp_of_start hph).trans (List.getElem?_eq_getElem (Nat.lt_succ_of_le hsub))⟩
  | word =>
    obtain ⟨-, hsub, -⟩ := (invSequencer_of_word hph).mp h.sequencer
    exact ⟨_, (currentOp_of_word hph).trans (List.getElem?_eq_getElem (Nat.lt_succ_of_le hsub))⟩
  | latch =>
    obtain ⟨-, -, hsub, -⟩ := (invSequencer_of_latch hph).mp h.sequencer
    exact ⟨_, (currentOp_of_latch hph).trans (List.getElem?_eq_getElem (Nat.lt_succ_of_le hsub))⟩

theorem showOps_at_start (h : EncoderInv p s) (hph : s.phase = .start) :
    (showOps p pixels)[operationIndex s.cells s]? = s.currentOp p := by
  obtain ⟨-, -, hsub, -, -⟩ := (invSequencer_of_start hph).mp h.sequencer
  rw [operationIndex_of_start _ hph, currentOp_of_start hph, showOps_getElem?_start p pixels (by omega)]

theorem showOps_at_word (h : EncoderInv p s) (hseq : s.scanSeq p = some pixels) (hph : s.phase = .word) :
    (showOps p pixels)[operationIndex s.cells s]? = s.currentOp p := by
  obtain ⟨hw, hsub, -, hword⟩ := (invSequencer_of_word hph).mp h.sequencer
  have hplace : 2 + 80 * s.widx.toNat + 5 * (15 - s.bidx.toNat) = 2 + 5 * (16 * s.widx.toNat + (15 - s.bidx.toNat)) := by
    omega
  have hbit : (frameBits p pixels)[16 * s.widx.toNat + (15 - s.bidx.toNat)]? = some (s.word.getLsbD s.bidx.toNat) := by
    obtain ⟨v, hv, hword⟩ := Option.map_eq_some_iff.mp hword
    have hback : 15 - (15 - s.bidx.toNat) = s.bidx.toNat := by omega
    rw [frameBits_getElem? p pixels _ (by omega), ← scanPixel_eq_getElem? hseq hw, hv, Option.map_some, hback, hword]
  rw [operationIndex_of_word _ hph, currentOp_of_word hph, hplace, showOps_getElem?_bit hbit (by omega)]

theorem showOps_at_latch (h : EncoderInv p s) (hseq : s.scanSeq p = some pixels) (hph : s.phase = .latch) :
    (showOps p pixels)[operationIndex s.cells s]? = s.currentOp p := by
  obtain ⟨-, -, hsub, hn, -, hzero⟩ := (invSequencer_of_latch hph).mp h.sequencer
  rw [currentOp_of_latch hph, operationIndex_of_latch _ hph hzero, ← length_of_scanSeq hseq, showOps_getElem?_latch]
  rcases Nat.lt_or_ge s.sub.toNat 2 with hwait | hpulse
  · have hplace : 4 * s.pcnt.toNat + s.sub.toNat = s.sub.toNat := by simp [hzero hwait]
    rw [hplace, latchOps_getElem?_wait p hwait, List.getElem?_append_left hwait]
  · have hplace : 4 * s.pcnt.toNat + s.sub.toNat = 2 + (4 * s.pcnt.toNat + (s.sub.toNat - 2)) := by omega
    rw [hplace, latchOps_getElem?_pulse p hn (by omega), List.getElem?_append_right hpulse]
    rfl

/-- In each phase the position is a place of the list, and the operation there is the position's own (R77). -/
theorem showOps_at_position (h : EncoderInv p s) (hseq : s.scanSeq p = some pixels) (hp : s.phase ≠ .idle) :
    (showOps p pixels)[operationIndex s.cells s]? = s.currentOp p := by
  cases hph : s.phase with
  | idle => exact absurd hph hp
  | start => exact showOps_at_start h hph
  | word => exact showOps_at_word h hseq hph
  | latch => exact showOps_at_latch h hseq hph

end Positions

/-- Settles O43: the position of a busy encoder selects an operation, so its place is one of the list. -/
theorem positionSelectsItsShowOperation : Obligations.PositionSelectsItsShowOperation := by
  intro p s pixels _ h hp hseq
  have hget := showOps_at_position h hseq hp
  obtain ⟨o, ho⟩ := exists_currentOp h hp
  exact ⟨(List.getElem?_eq_some_iff.mp (hget.trans ho)).1, hget⟩

/-! ### The move to the next place -/

theorem operationIndex_perform (n : Nat) (s : State) (o : Op) (r : Answer) :
    operationIndex n (s.perform o r) = operationIndex n s := by
  cases o <;> rfl

/-- A grid's size is that of its frame. -/
theorem SameFrame.cells_eq {s t : State} (h : SameFrame s t) : t.cells = s.cells := by
  rw [State.cells, h.rows, h.cols, State.cells]

/-- The advance moves the position to the next place, and from the last place to Idle (R71 to R75, R77). -/
theorem Advanced.operationIndex_eq {p : Params} {s t : State} (hp : p.Admissible) (h : EncoderInv p s)
    (ha : Advanced p s t) :
    (t.phase ≠ .idle ∧ operationIndex s.cells t = operationIndex s.cells s + 1) ∨
    (t.phase = .idle ∧ operationIndex s.cells s + 1 = 4 + 80 * s.cells + 4 * p.latchPulses) := by
  have hbusy : s.phase ≠ .idle := ha.busy
  cases ha with
  | start hph h0 =>
    refine .inl ⟨hbusy, Eq.trans (operationIndex_of_start _ hph) ?_⟩
    rw [operationIndex_of_start _ hph, h0]
    rfl
  | firstWord hph h0 v hv =>
    obtain ⟨-, -, hsub, -⟩ := (invSequencer_of_start hph).mp h.sequencer
    refine .inl ⟨by simp, Eq.trans (operationIndex_of_word _ rfl) ?_⟩
    rw [operationIndex_of_start _ hph, show s.sub.toNat = 1 by omega]
    rfl
  | inBit hph h4 =>
    refine .inl ⟨hbusy, Eq.trans (operationIndex_of_word _ hph) ?_⟩
    rw [operationIndex_of_word _ hph]
    bv_omega
  | nextBit hph h4 hb =>
    obtain ⟨-, hsub, -⟩ := (invSequencer_of_word hph).mp h.sequencer
    refine .inl ⟨hbusy, Eq.trans (operationIndex_of_word _ hph) ?_⟩
    rw [operationIndex_of_word _ hph]
    bv_omega
  | nextWord hph h4 hb hw v hv =>
    obtain ⟨-, hsub, -⟩ := (invSequencer_of_word hph).mp h.sequencer
    have hcells : s.cells ≤ 63 * 63 := cells_le s
    refine .inl ⟨by simp, Eq.trans (operationIndex_of_word _ rfl) ?_⟩
    rw [operationIndex_of_word _ hph]
    simp only [State.toWord_widx, State.toWord_bidx, State.toWord_sub]
    bv_omega
  | toLatch hph h4 hb hw =>
    obtain ⟨hlt, hsub, -⟩ := (invSequencer_of_word hph).mp h.sequencer
    refine .inl ⟨by simp, Eq.trans (operationIndex_of_latch _ rfl fun _ => rfl) ?_⟩
    rw [operationIndex_of_word _ hph, State.toLatch_sub, State.toLatch_pcnt]
    bv_omega
  | inLatch hph h5 =>
    obtain ⟨-, -, -, -, -, hzero⟩ := (invSequencer_of_latch hph).mp h.sequencer
    refine .inl ⟨hbusy, Eq.trans (operationIndex_of_latch _ hph fun h2 => hzero (by bv_omega)) ?_⟩
    rw [operationIndex_of_latch _ hph hzero]
    bv_omega
  | nextPulse hph h5 hmore =>
    obtain ⟨-, -, hsub, -, -, hzero⟩ := (invSequencer_of_latch hph).mp h.sequencer
    have hpulses : 1 ≤ p.latchPulses ∧ p.latchPulses ≤ 255 := by simpa [Params.pulsesOk] using hp.pulses
    refine .inl ⟨hbusy, Eq.trans (operationIndex_of_latch _ hph fun h2 => absurd h2 (Nat.lt_irrefl 2)) ?_⟩
    rw [operationIndex_of_latch _ hph hzero]
    bv_omega
  | finish hph h5 hlast =>
    obtain ⟨-, -, hsub, hn, -, hzero⟩ := (invSequencer_of_latch hph).mp h.sequencer
    refine .inr ⟨rfl, ?_⟩
    rw [operationIndex_of_latch _ hph hzero]
    omega

/-- Settles O44: a step whose operation is answered `ok` performs it and advances. -/
theorem answeredStepMovesToTheNextOperation : Obligations.AnsweredStepMovesToTheNextOperation := by
  intro p s t i o hp h _ ho ha ht
  obtain ⟨o', ho', hcases⟩ := sequence_next p s t i ht
  obtain rfl : o = o' := Option.some.inj (ho.symm.trans ho')
  have hadv : Advanced p (s.perform o .ok) t := by simpa [ha] using hcases
  have hnext := hadv.operationIndex_eq hp (h.perform o .ok)
  rw [operationIndex_perform, State.perform_cells] at hnext
  rwa [hadv.sameFrame.cells_eq, State.perform_cells]

end Sys2Proof.Machine

/-! Proofs for 41_show_transmitter.md, R69, R77: the steps of a SHOW and `Run(ShowOps)` go side by side. The two states differ
in the sequencer, the outputs and the signals only, and at each step the list still to run is `ShowOps` from the position's
place on. -/
namespace Sys2Proof.Machine

open Sys2Proof.Config (Params)

/-! ### Run -/

theorem runOps_nil (ins : List Signals) (s : State) : runOps [] ins s = some (s, ins, none) := by
  cases ins <;> rfl

theorem runOps_no_signals (o : Op) (ops : List Op) (s : State) : runOps (o :: ops) [] s = none := rfl

section Run

variable {i : Signals} {o : Op} (ops : List Op) (ins : List Signals) (s : State)

theorem runOps_of_no_answer (ha : i.answer o = none) : runOps (o :: ops) (i :: ins) s = runOps (o :: ops) ins s := by
  simp [runOps, ha]

theorem runOps_of_ok (ha : i.answer o = some .ok) :
    runOps (o :: ops) (i :: ins) s = runOps ops ins (s.perform o .ok) := by
  simp [runOps, ha]

theorem runOps_of_fault (ha : i.answer o = some .fault) :
    runOps (o :: ops) (i :: ins) s = some (s.perform o .fault, ins, some o.source) := by
  simp [runOps, ha]

end Run

/-- The end of a transmission: `SEQ` and `WORD` at their Idle zeros, the signals that are left, and the response, OK or the
source of the fault (R69, R76). -/
def State.endShow (s : State) (left : List Signals) (source : Option (BitVec 16)) : State :=
  match source with
  | none => ({ s.toIdle with inputs := left }).respond 0
  | some src => ({ s.toIdle with inputs := left }).raise .hardwareFault src

@[simp] theorem State.endShow_inputs (s : State) (left : List Signals) (source : Option (BitVec 16)) :
    (s.endShow left source).inputs = left := by
  cases source <;> rfl

/-- A transmission as a whole runs `ShowOps` and ends (R69). -/
theorem transmitWhole_eq {p : Params} {s : State} {pixels : List Pixel} (hseq : s.scanSeq p = some pixels) :
    transmitWhole p s = (runOps (showOps p pixels) s.inputs s).map fun (t, left, source) => t.endShow left source := by
  simp only [transmitWhole, hseq]
  cases runOps (showOps p pixels) s.inputs s with
  | none => rfl
  | some r => obtain ⟨t, left, _ | src⟩ := r <;> rfl

/-! ### States side by side -/

/-- Two states agree on the frame, the lines, the pins and the trace: on everything but the sequencer, the response, the port
and the signals. -/
structure SameLines (s t : State) : Prop where
  frame : SameFrame s t
  clk : t.clk = s.clk
  data : t.data = s.data
  clkO : t.clkO = s.clkO
  dataO : t.dataO = s.dataO
  trace : t.trace = s.trace

namespace SameLines

variable {s t : State}

theorem trans {u : State} (h : SameLines s t) (h' : SameLines t u) : SameLines s u where
  frame := h.frame.trans h'.frame
  clk := h'.clk.trans h.clk
  data := h'.data.trans h.data
  clkO := h'.clkO.trans h.clkO
  dataO := h'.dataO.trans h.dataO
  trace := h'.trace.trans h.trace

theorem symm (h : SameLines s t) : SameLines t s where
  frame := ⟨h.frame.cfg.symm, h.frame.rows.symm, h.frame.cols.symm, h.frame.fb.symm⟩
  clk := h.clk.symm
  data := h.data.symm
  clkO := h.clkO.symm
  dataO := h.dataO.symm
  trace := h.trace.symm

/-- An operation answered alike keeps the agreement. -/
theorem perform (h : SameLines s t) (o : Op) (r : Answer) : SameLines (s.perform o r) (t.perform o r) := by
  have hframe : SameFrame (s.perform o r) (t.perform o r) :=
    ⟨by simp [h.frame.cfg], by simp [h.frame.rows], by simp [h.frame.cols], by simp [h.frame.fb]⟩
  have htrace : (t.perform o r).trace = (s.perform o r).trace := by simp [h.trace]
  cases o with
  | setClk v => exact ⟨hframe, rfl, h.data, rfl, h.dataO, htrace⟩
  | setData v => exact ⟨hframe, h.clk, rfl, h.clkO, rfl, htrace⟩
  | delay d => exact ⟨hframe, h.clk, h.data, h.clkO, h.dataO, htrace⟩

/-- What a transmission leaves of the sequencer, the response and the signals does not depend on what they were. -/
theorem endShow_eq (h : SameLines s t) (hop : t.op = s.op) (left : List Signals) (source : Option (BitVec 16)) :
    t.endShow left source = s.endShow left source := by
  obtain ⟨⟨hcfg, hrows, hcols, hfb⟩, hclk, hdata, hclkO, hdataO, htrace⟩ := h
  cases source with
  | none => simp [State.endShow, State.respond, State.toIdle, *]
  | some src => simp [State.endShow, State.raise, State.toIdle, *]

end SameLines

/-- The advance moves the sequencer and responds; it writes no line and no event (R71 to R75). -/
theorem Advanced.sameLines {p : Params} {s t : State} (h : Advanced p s t) : SameLines s t := by
  cases h <;> exact ⟨⟨rfl, rfl, rfl, rfl⟩, rfl, rfl, rfl, rfl, rfl⟩

theorem Advanced.inputs_eq {p : Params} {s t : State} (h : Advanced p s t) : t.inputs = s.inputs := by
  cases h <;> rfl

/-- The advance to Idle is the end of a transmission without a fault (R75). -/
theorem Advanced.eq_endShow {p : Params} {s t : State} (h : Advanced p s t) (ht : t.phase = .idle) :
    t = s.endShow s.inputs none := by
  have hbusy : s.phase ≠ .idle := h.busy
  cases h with
  | start | inBit | nextBit | inLatch | nextPulse => exact absurd ht hbusy
  | firstWord | nextWord | toLatch => simp at ht
  | finish => rfl

/-- The abort is the end of a transmission with a fault (R76). -/
theorem abort_eq_endShow (s : State) (o : Op) : s.abort o = s.endShow s.inputs (some o.source) := rfl

theorem sameLines_beginStep (s : State) (rest : List Signals) : SameLines s (s.beginStep rest) :=
  ⟨⟨rfl, rfl, rfl, rfl⟩, rfl, rfl, rfl, rfl, rfl⟩

theorem SameFrame.scanSeq_eq {s t : State} (h : SameFrame s t) (p : Params) : t.scanSeq p = s.scanSeq p := by
  have hpixel : t.scanPixel p = s.scanPixel p := by
    funext k
    simp [State.scanPixel, State.scanIndex, h.fb, h.rows, h.cols]
  rw [State.scanSeq, State.scanSeq, h.cells_eq, hpixel]

/-! ### The steps of a SHOW run its operations -/

/-- Under the invariants the advance of a busy encoder does not stop the machine: every cell it loads holds a value. -/
theorem exists_advanced {p : Params} {s : State} (h : EncoderInv p s) {pixels : List Pixel}
    (hseq : s.scanSeq p = some pixels) (hp : s.phase ≠ .idle) : ∃ t, Advanced p s t := by
  have hread : ∀ k < s.cells, ∃ v, s.scanPixel p k = some v := fun k hk =>
    ⟨_, (scanPixel_eq_getElem? hseq hk).trans (List.getElem?_eq_getElem (length_of_scanSeq hseq ▸ hk))⟩
  cases hph : s.phase with
  | idle => exact absurd hph hp
  | start =>
    obtain ⟨v, hv⟩ := hread 0 (h.cells_pos (h.cfg_of_busy hp))
    by_cases h0 : s.sub.toNat = 0
    · exact ⟨_, .start hph h0⟩
    · exact ⟨_, .firstWord hph h0 v hv⟩
  | word =>
    rcases Nat.lt_or_ge s.sub.toNat 4 with h4 | h4
    · exact ⟨_, .inBit hph h4⟩
    · rcases Nat.eq_zero_or_pos s.bidx.toNat with hb | hb
      · rcases Nat.lt_or_ge (s.widx.toNat + 1) s.cells with hw | hw
        · have hcells : s.cells ≤ 63 * 63 := cells_le s
          have hnext : (s.widx + 1).toNat < s.cells := by bv_omega
          obtain ⟨v, hv⟩ := hread _ hnext
          exact ⟨_, .nextWord hph h4 hb hw v hv⟩
        · exact ⟨_, .toLatch hph h4 hb hw⟩
      · exact ⟨_, .nextBit hph h4 hb⟩
  | latch =>
    rcases Nat.lt_or_ge s.sub.toNat 5 with h5 | h5
    · exact ⟨_, .inLatch hph h5⟩
    · rcases Nat.lt_or_ge (s.pcnt.toNat + 1) p.latchPulses with hmore | hlast
      · exact ⟨_, .nextPulse hph h5 hmore⟩
      · exact ⟨_, .finish hph h5 hlast⟩

/-- What a step of a SHOW does, by the answer of its operation `o`: it waits, moves to the next place of the list, ends the
SHOW after the last place, or ends it at a fault (R68, R76, R77). -/
inductive ShowStep (s : State) (i : Signals) (rest : List Signals) (o : Op) (t : State) : Prop where
  | waits (ha : i.answer o = none) (hp : t.phase ≠ .idle) (hl : SameLines s t)
      (hx : operationIndex t.cells t = operationIndex s.cells s)
  | moves (ha : i.answer o = some .ok) (hp : t.phase ≠ .idle) (hl : SameLines (s.perform o .ok) t)
      (hx : operationIndex t.cells t = operationIndex s.cells s + 1)
  | ends (ha : i.answer o = some .ok) (ht : t = (s.perform o .ok).endShow rest none)
      (hx : operationIndex s.cells s + 1 = 4 + 80 * s.cells + 4 * Config.params.latchPulses)
  | faults (ha : i.answer o = some .fault) (ht : t = (s.perform o .fault).endShow rest (some o.source))

/-- The step of a position whose operation is answered `ok`, from the advance. -/
theorem showStep_of_advanced {s t : State} {i : Signals} {rest : List Signals} {o : Op} (h : EncoderInv Config.params s)
    (ha : i.answer o = some .ok) (hadv : Advanced Config.params ((s.beginStep rest).perform o .ok) t) :
    ShowStep s i rest o t := by
  have hlines : SameLines ((s.beginStep rest).perform o .ok) (s.perform o .ok) :=
    (sameLines_beginStep s rest).symm.perform o .ok
  have hmove := hadv.operationIndex_eq Config.defaultConfigurationIsAdmissible ((h.beginStep rest).perform o .ok)
  rw [operationIndex_perform, State.perform_cells] at hmove
  obtain ⟨hbusy, hnext⟩ | ⟨hidle, hlast⟩ := hmove
  · have hcells : t.cells = s.cells := hadv.sameFrame.cells_eq.trans (by simp)
    exact .moves ha hbusy (hlines.symm.trans hadv.sameLines) (hcells ▸ hnext)
  · refine .ends ha ?_ hlast
    rw [hlines.endShow_eq (by simp), hadv.eq_endShow hidle]
    simp

theorem showStep_of_busy {s : State} {i : Signals} {rest : List Signals} (h : EncoderInv Config.params s)
    {pixels : List Pixel} (hseq : s.scanSeq Config.params = some pixels) (hp : s.phase ≠ .idle)
    (hi : s.inputs = i :: rest) (hr : i.rst = false) :
    ∃ o t, s.currentOp Config.params = some o ∧ step s = .next t ∧ t.inputs = rest ∧ ShowStep s i rest o t := by
  obtain ⟨o, ho⟩ := exists_currentOp h hp
  cases ha : i.answer o with
  | none =>
    refine ⟨o, _, ho, step_of_no_answer hi hr ho ha, rfl, .waits ha hp ?_ rfl⟩
    exact ⟨⟨rfl, rfl, rfl, rfl⟩, rfl, rfl, rfl, rfl, rfl⟩
  | some r =>
    cases r with
    | ok =>
      have hframe : SameFrame s ((s.beginStep rest).perform o .ok) :=
        (sameLines_beginStep s rest).frame.trans (perform_sameFrame _ o .ok)
      obtain ⟨t, hadv⟩ := exists_advanced ((h.beginStep rest).perform o .ok) ((hframe.scanSeq_eq _).trans hseq)
        (by simpa using hp)
      exact ⟨o, t, ho, step_of_ok hi hr ho ha hadv, hadv.inputs_eq.trans (by simp), showStep_of_advanced h ha hadv⟩
    | fault =>
      refine ⟨o, _, ho, step_of_fault hi hr ho ha, by simp [State.abort], .faults ha ?_⟩
      rw [((sameLines_beginStep s rest).symm.perform o .fault).endShow_eq (by simp), abort_eq_endShow]
      simp

/-- The machine at `s`, with the signals `ins` and then `rest`, ends as `Run` does: when `Run` ends with the signals `left`,
in its end state after the steps that use up the others; when the signals run out first, in a SHOW still in progress. -/
def EndsLikeRun (s : State) (ins rest : List Signals) (run : Option (State × List Signals × Option (BitVec 16))) : Prop :=
  match run with
  | none => ∃ t, core.run ins.length s = .next t ∧ t.phase ≠ .idle ∧ t.inputs = rest
  | some (w, left, source) =>
    ∃ n, n + left.length = ins.length ∧ core.run n s = .next (w.endShow (left ++ rest) source)

theorem EndsLikeRun.of_step {s t : State} {i : Signals} {ins rest : List Signals}
    {run : Option (State × List Signals × Option (BitVec 16))} (hstep : step s = .next t) (h : EndsLikeRun t ins rest run) :
    EndsLikeRun s (i :: ins) rest run := by
  match run, h with
  | none, ⟨u, hrun, hend⟩ => exact ⟨u, (run_succ_of_step hstep _).trans hrun, hend⟩
  | some (w, left, source), ⟨n, hn, hrun⟩ =>
    exact ⟨n + 1, by rw [List.length_cons, ← hn]; omega, (run_succ_of_step hstep n).trans hrun⟩

/-- The one step that ends a SHOW ends it like `Run`. -/
theorem endsLikeRun_of_last_step {s w : State} {i : Signals} {ins rest : List Signals} {source : Option (BitVec 16)}
    (hstep : step s = .next (w.endShow (ins ++ rest) source)) : EndsLikeRun s (i :: ins) rest (some (w, ins, source)) :=
  ⟨1, Nat.add_comm _ _, (run_succ_of_step hstep 0).trans rfl⟩

/-- The list from a position's place on begins with the position's operation. -/
theorem drop_operationIndex {p : Params} {s : State} (h : EncoderInv p s) {pixels : List Pixel}
    (hseq : s.scanSeq p = some pixels) {o : Op} (ho : s.currentOp p = some o) :
    (showOps p pixels).drop (operationIndex s.cells s) = o :: (showOps p pixels).drop (operationIndex s.cells s + 1) :=
  drop_eq_cons_of_getElem? ((showOps_at_position h hseq (busy_of_currentOp ho)).trans ho)

/-- From any position of a SHOW, the machine ends like the run of the operations from the position's place on. -/
theorem endsLikeRun_of_busy {pixels : List Pixel} (ins rest : List Signals) (s v : State) (h : EncoderInv Config.params s)
    (hseq : s.scanSeq Config.params = some pixels) (hp : s.phase ≠ .idle) (hv : SameLines s v)
    (hi : s.inputs = ins ++ rest) (hr : ∀ i ∈ ins, i.rst = false) :
    EndsLikeRun s ins rest (runOps ((showOps Config.params pixels).drop (operationIndex s.cells s)) ins v) := by
  induction ins generalizing s v with
  | nil =>
    obtain ⟨o, ho⟩ := exists_currentOp h hp
    rw [drop_operationIndex h hseq ho, runOps_no_signals]
    exact ⟨s, rfl, hp, hi⟩
  | cons i ins ih =>
    obtain ⟨hri, hr⟩ := List.forall_mem_cons.mp hr
    obtain ⟨o, t, ho, hstep, hinputs, hshow⟩ := showStep_of_busy h hseq hp hi hri
    have hinv : EncoderInv Config.params t := everyStepKeepsTheInvariants s t h hstep
    have hdrop := drop_operationIndex h hseq ho
    cases hshow with
    | waits ha hbusy hl hx =>
      rw [hdrop, runOps_of_no_answer _ _ _ ha, ← hdrop, ← hx]
      exact .of_step hstep (ih t v hinv ((hl.frame.scanSeq_eq _).trans hseq) hbusy (hl.symm.trans hv) hinputs hr)
    | moves ha hbusy hl hx =>
      have hframe : SameFrame s t := (perform_sameFrame s o .ok).trans hl.frame
      rw [hdrop, runOps_of_ok _ _ _ ha, ← hx]
      exact .of_step hstep
        (ih t _ hinv ((hframe.scanSeq_eq _).trans hseq) hbusy (hl.symm.trans (hv.perform o .ok)) hinputs hr)
    | ends ha ht hx =>
      have hend : (showOps Config.params pixels).length ≤ operationIndex s.cells s + 1 := by
        rw [hx, length_showOps, length_of_scanSeq hseq]
      rw [hdrop, runOps_of_ok _ _ _ ha, List.drop_eq_nil_of_le hend, runOps_nil]
      exact endsLikeRun_of_last_step (by rw [hstep, ht, (hv.perform o .ok).endShow_eq (by simp)]; rfl)
    | faults ha ht =>
      rw [hdrop, runOps_of_fault _ _ _ ha]
      exact endsLikeRun_of_last_step (by rw [hstep, ht, (hv.perform o .fault).endShow_eq (by simp)]; rfl)

/-- From the acceptance of SHOW, the machine ends like `Run(ShowOps)` (R69). -/
theorem endsLikeRun_of_idle {s : State} {pixels : List Pixel} {ins rest : List Signals} (h : EncoderInv Config.params s)
    (hcfg : s.cfg = true) (hp : s.phase = .idle) (hseq : s.scanSeq Config.params = some pixels)
    (hi : s.inputs = ins ++ rest) (hr : ∀ i ∈ ins, i.rst = false) :
    EndsLikeRun s.toStart ins rest (runOps (showOps Config.params pixels) ins s) :=
  endsLikeRun_of_busy ins rest s.toStart s (h.toStart hp hcfg) hseq (by simp)
    ⟨⟨rfl, rfl, rfl, rfl⟩, rfl, rfl, rfl, rfl, rfl⟩ hi hr

/-- Settles O45: `transmitWhole` is the end of `Run(ShowOps)`, and the steps end like it. -/
theorem showStepsAgreeWithTheOperationList : Obligations.ShowStepsAgreeWithTheOperationList := by
  intro s h hcfg hp hr
  obtain ⟨pixels, -, hseq, -⟩ :=
    scanSequenceIsARearrangementOfTheCells Config.params s Config.defaultConfigurationIsAdmissible h hcfg
  have hexec : exec .showFb s = .next s.toStart := exec_showFb_of_configured hcfg
  have hend := endsLikeRun_of_idle h hcfg hp hseq (List.append_nil _).symm hr
  rw [transmitWhole_eq hseq]
  cases hrun : runOps (showOps Config.params pixels) s.inputs s with
  | none =>
    rw [hrun] at hend
    obtain ⟨t, hsteps, hbusy, hempty⟩ := hend
    exact ⟨fun t ht => by simp at ht, fun _ => ⟨_, t, hexec, hsteps, hbusy, hempty⟩⟩
  | some r =>
    obtain ⟨w, left, source⟩ := r
    rw [hrun] at hend
    obtain ⟨n, hn, hsteps⟩ := hend
    refine ⟨fun t ht => ⟨_, hexec, ?_⟩, fun hnone => by simp at hnone⟩
    obtain rfl : w.endShow left source = t := by simpa using ht
    rwa [State.endShow_inputs, ← hn, Nat.add_sub_cancel, ← List.append_nil left]

end Sys2Proof.Machine

/-! Proofs for 41_show_transmitter.md, R69, R76, R81, R82: the end of a SHOW whose operations are answered `ok`, all of them or
all before one that faults. -/
namespace Sys2Proof.Machine

open Sys2Proof.Config (Params)

/-! ### Operations all of which are answered `ok` -/

/-- The operations in order, each answered `ok`. -/
def State.performAll (s : State) (ops : List Op) : State :=
  ops.foldl (fun s o => s.perform o .ok) s

@[simp] theorem State.performAll_nil (s : State) : s.performAll [] = s := rfl

@[simp] theorem State.performAll_cons (s : State) (o : Op) (ops : List Op) :
    s.performAll (o :: ops) = (s.perform o .ok).performAll ops := rfl

theorem State.performAll_append (s : State) (ops more : List Op) :
    s.performAll (ops ++ more) = (s.performAll ops).performAll more :=
  List.foldl_append

theorem State.performAll_trace (s : State) (ops : List Op) : (s.performAll ops).trace = s.trace ++ okTrace ops := by
  induction ops generalizing s with
  | nil => simp
  | cons o ops ih => simp [ih]

theorem performAll_sameFrame (s : State) (ops : List Op) : SameFrame s (s.performAll ops) := by
  induction ops generalizing s with
  | nil => exact ⟨rfl, rfl, rfl, rfl⟩
  | cons o ops ih => exact (perform_sameFrame s o .ok).trans (ih _)

theorem allOk_iff (i : Signals) :
    i.allOk = true ↔ i.rst = false ∧ i.lineFault = false ∧ i.dlyDone = true ∧ i.dlyFault = false := by
  simp [Signals.allOk, and_assoc]

theorem answer_of_allOk {i : Signals} (h : i.allOk = true) (o : Op) : i.answer o = some .ok := by
  obtain ⟨-, hline, hdone, hfault⟩ := (allOk_iff i).mp h
  cases o with
  | setClk v => exact answer_setClk_ok hline v
  | setData v => exact answer_setData_ok hline v
  | delay d => exact answer_delay_ok hdone hfault d

theorem rst_of_allOk {i : Signals} (h : i.allOk = true) : i.rst = false :=
  ((allOk_iff i).mp h).1

/-- `Run` performs the operations whose signals answer `ok`, and goes on with the rest. -/
theorem runOps_of_allOk {ins : List Signals} (hok : ∀ i ∈ ins, i.allOk = true) (tail : List Signals) {ops : List Op}
    (hlen : ins.length = ops.length) (more : List Op) (s : State) :
    runOps (ops ++ more) (ins ++ tail) s = runOps more tail (s.performAll ops) := by
  induction ops generalizing ins s with
  | nil => rw [List.eq_nil_of_length_eq_zero hlen]; rfl
  | cons o ops ih =>
    cases ins with
    | nil => simp at hlen
    | cons i ins =>
      obtain ⟨hi, hok⟩ := List.forall_mem_cons.mp hok
      rw [List.cons_append, List.cons_append, runOps_of_ok _ _ _ (answer_of_allOk hi o), ih hok (by simpa using hlen)]
      rfl

/-! ### The lines after a whole SHOW (R81, R82) -/

/-- The clock line and its pin are low. -/
structure ClkLow (s : State) : Prop where
  clk : s.clk = .L
  clkO : s.clkO = .L

/-- Both lines and both pins are low. -/
structure LinesLow (s : State) : Prop extends ClkLow s where
  data : s.data = .L
  dataO : s.dataO = .L

/-- Each bit leaves the clock low (R64). -/
theorem clkLow_bits (p : Params) (bits : List Bool) {s : State} (h : ClkLow s) :
    ClkLow (s.performAll (bits.flatMap (bitOps p))) := by
  induction bits generalizing s with
  | nil => exact h
  | cons b bits ih =>
    rw [List.flatMap_cons, State.performAll_append]
    exact ih ⟨rfl, rfl⟩

/-- Each pulse leaves the data line low and writes no clock (R66). -/
theorem linesLow_pulses (p : Params) (n : Nat) {s : State} (h : LinesLow s) : LinesLow (s.performAll (pulsesOps p n)) := by
  induction n generalizing s with
  | zero => exact h
  | succ n ih =>
    rw [pulsesOps, State.performAll_append]
    exact ih ⟨⟨h.clk, h.clkO⟩, rfl, rfl⟩

/-- A whole SHOW leaves both lines low, whatever they were (R81, R82). -/
theorem linesLow_showOps (p : Params) (pixels : List Pixel) (s : State) :
    LinesLow (s.performAll (showOps p pixels)) := by
  rw [showOps, latchOps, wordsOps_eq_flatMap, State.performAll_append, State.performAll_append, State.performAll_append]
  have hbits := clkLow_bits p (frameBits p pixels) (s := s.performAll startOps) ⟨rfl, rfl⟩
  exact linesLow_pulses p _ ⟨⟨hbits.clk, hbits.clkO⟩, rfl, rfl⟩

theorem performAll_pulsesOps_op (p : Params) (n : Nat) (s : State) :
    (s.performAll (pulsesOps p (n + 1))).op = some (.delay p.tLatchLo) := by
  induction n generalizing s with
  | zero => rfl
  | succ n ih =>
    rw [pulsesOps, State.performAll_append]
    exact ih _

/-- The last operation of a SHOW is the delay of its last pulse. -/
theorem performAll_showOps_op {p : Params} (hp : 0 < p.latchPulses) (pixels : List Pixel) (s : State) :
    (s.performAll (showOps p pixels)).op = some (.delay p.tLatchLo) := by
  obtain ⟨n, hn⟩ := Nat.exists_eq_add_one_of_ne_zero hp.ne'
  rw [showOps, latchOps, hn, State.performAll_append, State.performAll_append]
  exact performAll_pulsesOps_op p n _

/-- The state at the end of a SHOW answered `ok` throughout, from any Idle state (R69, R81, R82). -/
theorem endShow_performAll_showOps {p : Params} (hp : 0 < p.latchPulses) {s : State} (h : InvSequencer p s)
    (hph : s.phase = .idle) (pixels : List Pixel) (left : List Signals) :
    (s.performAll (showOps p pixels)).endShow left none =
      { s with
        clk := .L
        data := .L
        clkO := .L
        dataO := .L
        rsp := some ⟨.ok, 0⟩
        op := some (.delay p.tLatchLo)
        trace := s.trace ++ okTrace (showOps p pixels)
        inputs := left } := by
  obtain ⟨hw, hb, hsub, hn, hword⟩ := (invSequencer_of_idle hph).mp h
  obtain ⟨⟨hclk, hclkO⟩, hdata, hdataO⟩ := linesLow_showOps p pixels s
  obtain ⟨hcfg, hrows, hcols, hfb⟩ := performAll_sameFrame s (showOps p pixels)
  have hop := performAll_showOps_op hp pixels s
  have htrace := s.performAll_trace (showOps p pixels)
  simp [State.endShow, State.respond, State.toIdle, *]

/-- Settles O46: `Run` performs the whole list and ends without a fault. -/
theorem successfulShowSendsTheWholeFrame : Obligations.SuccessfulShowSendsTheWholeFrame := by
  intro s pixels ins rest h hcfg hp hseq hi hok hlen
  have hops : ins.length = (showOps Config.params pixels).length := by
    rw [length_showOps, length_of_scanSeq hseq]
    exact hlen
  have hrun := (runOps_of_allOk hok [] hops [] s).trans (runOps_nil _ _)
  rw [List.append_nil, List.append_nil] at hrun
  have hend := endsLikeRun_of_idle h hcfg hp hseq hi fun i hmem => rst_of_allOk (hok i hmem)
  rw [hrun] at hend
  obtain ⟨n, hn, hsteps⟩ := hend
  obtain rfl : n = ins.length := hn
  refine ⟨_, exec_showFb_of_configured hcfg, hsteps.trans ?_⟩
  rw [endShow_performAll_showOps (by decide) h.sequencer hp]
  rfl

/-- Settles O47: `Run` performs the operations before the faulted one, and ends at it with its source. -/
theorem faultedShowStopsAtTheFaultedOperation : Obligations.FaultedShowStopsAtTheFaultedOperation := by
  intro s pixels ins rest bad o h hcfg hp hseq hi hok hbad ho ha
  have hlt : ins.length < (showOps Config.params pixels).length := (List.getElem?_eq_some_iff.mp ho).1
  have hbefore : ins.length = ((showOps Config.params pixels).take ins.length).length := by
    rw [List.length_take, Nat.min_eq_left hlt.le]
  have hrun := runOps_of_allOk hok [bad] hbefore ((showOps Config.params pixels).drop ins.length) s
  rw [List.take_append_drop, drop_eq_cons_of_getElem? ho, runOps_of_fault _ _ _ ha] at hrun
  have hr : ∀ i ∈ ins ++ [bad], i.rst = false :=
    List.forall_mem_append.mpr ⟨fun i hmem => rst_of_allOk (hok i hmem), List.forall_mem_singleton.mpr hbad⟩
  have hend := endsLikeRun_of_idle h hcfg hp hseq (hi.trans (List.append_cons ins bad rest)) hr
  rw [hrun] at hend
  obtain ⟨n, hn, hsteps⟩ := hend
  obtain rfl : n = ins.length + 1 := by simpa using hn
  obtain ⟨hcfg', hrows, hcols, hfb⟩ := (performAll_sameFrame s _).trans (perform_sameFrame _ o .fault)
  refine ⟨_, _, exec_showFb_of_configured hcfg, hsteps, ?trace, rfl, rfl, rfl, hcfg', hrows, hcols, hfb⟩
  case trace => simp [State.endShow, State.performAll_trace]

end Sys2Proof.Machine

/-! Proofs for 41_show_transmitter.md section 3: no bleed-over (R82). A step of two states that differ in their lines alone
is the same step, on other lines: `step` commutes with the exchange of the lines. -/
namespace Sys2Proof.Machine

open Sys2Proof.Config (Params)

/-! ### The exchange of the lines -/

/-- The two line registers and the two pins (R17, R50). -/
structure Lines where
  clk : LineState
  data : LineState
  clkO : Level
  dataO : Level

/-- `s` with other line registers and pins. -/
def State.withLines (s : State) (l : Lines) : State :=
  { s with clk := l.clk, data := l.data, clkO := l.clkO, dataO := l.dataO }

/-- An outcome whose next state, if it is one, has other lines. -/
def outcomeWithLines (o : Outcome) (l : Lines) : Outcome :=
  match o with
  | .next s => .next (s.withLines l)
  | .fault r => .fault r
  | .refused r => .refused r

@[simp] theorem outcomeWithLines_next (s : State) (l : Lines) : outcomeWithLines (.next s) l = .next (s.withLines l) := rfl
@[simp] theorem outcomeWithLines_fault (r : Fault) (l : Lines) : outcomeWithLines (.fault r) l = .fault r := rfl

theorem eq_outcomeWithLines {o o' : Outcome} {t : State} {l : Lines} (h : o = .next t) (h' : o' = .next (t.withLines l)) :
    o' = outcomeWithLines o l := by
  rw [h, h', outcomeWithLines_next]

theorem agreeButLines_withLines (s : State) (l : Lines) : AgreeButLines s (s.withLines l) where
  cfg := rfl
  rows := rfl
  cols := rfl
  fb := rfl
  phase := rfl
  widx := rfl
  bidx := rfl
  sub := rfl
  pcnt := rfl
  word := rfl
  trace := rfl
  inputs := rfl

/-- States that agree but for the lines become one state, on the lines of either, once the outputs are set alike. -/
theorem eq_withLines_of_agreeButLines {s s' : State} (h : AgreeButLines s s') :
    ∃ l : Lines, ∀ (r : Option Response) (o : Option Op) (es : List Event) (ins : List Signals),
      { s' with rsp := r, op := o, trace := es, inputs := ins } =
        ({ s with rsp := r, op := o, trace := es, inputs := ins } : State).withLines l := by
  refine ⟨⟨s'.clk, s'.data, s'.clkO, s'.dataO⟩, fun r o es ins => ?_⟩
  simp [State.withLines, h.cfg, h.rows, h.cols, h.fb, h.phase, h.widx, h.bidx, h.sub, h.pcnt, h.word]

/-! ### The commands -/

theorem respondCell_withLines (s : State) (l : Lines) (i : Nat) :
    (s.withLines l).respondCell i = outcomeWithLines (s.respondCell i) l := by
  cases h : s.fb.read i with
  | none => rw [respondCell_eq_fault h]; exact respondCell_eq_fault h
  | some v => rw [respondCell_of_read h]; exact respondCell_of_read h

/-- No command reads or writes a line: its checks and its effect are the same on other lines. -/
theorem exec_withLines (i : Instr) (s : State) (l : Lines) :
    exec i (s.withLines l) = outcomeWithLines (exec i s) l := by
  by_cases hc : checkStatus i s = .ok
  case neg =>
    have hother : checkStatus i (s.withLines l) = checkStatus i s := by cases i <;> rfl
    have herror := exec_error i (s.withLines l) (hother ▸ hc)
    rw [hother] at herror
    exact eq_outcomeWithLines (exec_error i s hc) herror
  case pos =>
    cases i with
    | init r c v => exact eq_outcomeWithLines (initAt_ok _ r c v s hc) (initAt_ok _ r c v (s.withLines l) hc)
    | set r c v => exact eq_outcomeWithLines (setAt_ok _ r c v s hc) (setAt_ok _ r c v (s.withLines l) hc)
    | get r c =>
      have hread : exec (.get r c) s = _ := getAt_ok r c s hc
      rw [hread, ← respondCell_withLines]
      exact getAt_ok r c (s.withLines l) hc
    | scanrd k =>
      have hread : exec (.scanrd k) s = _ := scanrdAt_ok _ k s hc
      rw [hread, ← respondCell_withLines]
      exact scanrdAt_ok _ k (s.withLines l) hc
    | showFb => exact eq_outcomeWithLines (showAt_ok s hc) (showAt_ok (s.withLines l) hc)

/-! ### The sequencer -/

theorem enterWord_withLines (p : Params) (s : State) (l : Lines) (k : BitVec 12) :
    (s.withLines l).enterWord p k = outcomeWithLines (s.enterWord p k) l := by
  have hpixel : (s.withLines l).scanPixel p k.toNat = s.scanPixel p k.toNat := rfl
  simp only [State.enterWord, hpixel]
  split <;> rfl

theorem endBit_withLines (p : Params) (s : State) (l : Lines) :
    (s.withLines l).endBit p = outcomeWithLines (s.endBit p) l := by
  unfold State.endBit
  rw [apply_ite (outcomeWithLines · l), apply_ite (outcomeWithLines · l), ← enterWord_withLines]
  rfl

theorem endPulse_withLines (p : Params) (s : State) (l : Lines) :
    (s.withLines l).endPulse p = outcomeWithLines (s.endPulse p) l := by
  unfold State.endPulse
  rw [apply_ite (outcomeWithLines · l)]
  rfl

/-- The advance reads the sequencer and the frame buffer only (R71 to R75). -/
theorem advance_withLines (p : Params) (s : State) (l : Lines) :
    (s.withLines l).advance p = outcomeWithLines (s.advance p) l := by
  unfold State.advance
  have hphase : (s.withLines l).phase = s.phase := rfl
  cases hp : s.phase with
  | idle => simp [hphase, hp]
  | start => simp only [hphase, hp, apply_ite (outcomeWithLines · l), ← enterWord_withLines]; rfl
  | word => simp only [hphase, hp, apply_ite (outcomeWithLines · l), ← endBit_withLines]; rfl
  | latch => simp only [hphase, hp, apply_ite (outcomeWithLines · l), ← endPulse_withLines]; rfl

/-- An operation answered on other lines leaves other lines. -/
theorem perform_withLines (s : State) (l : Lines) (o : Op) (r : Answer) :
    ∃ l' : Lines, (s.withLines l).perform o r = (s.perform o r).withLines l' := by
  cases o with
  | setClk v => exact ⟨{ l with clk := lineAfter v r, clkO := v }, rfl⟩
  | setData v => exact ⟨{ l with data := lineAfter v r, dataO := v }, rfl⟩
  | delay d => exact ⟨l, rfl⟩

theorem sequence_withLines (p : Params) (s : State) (l : Lines) (i : Signals) :
    ∃ l' : Lines, (s.withLines l).sequence p i = outcomeWithLines (s.sequence p i) l' := by
  have hop : (s.withLines l).currentOp p = s.currentOp p := rfl
  unfold State.sequence
  rw [hop]
  split
  · exact ⟨l, rfl⟩
  · next o _ =>
    split
    · exact ⟨l, rfl⟩
    · obtain ⟨l', hl⟩ := perform_withLines s l o .ok
      exact ⟨l', by rw [hl, advance_withLines]⟩
    · obtain ⟨l', hl⟩ := perform_withLines s l o .fault
      exact ⟨l', by rw [hl]; rfl⟩

/-! ### The step and the run -/

theorem execute_withLines (s : State) (l : Lines) (c : CmdWord) :
    (s.withLines l).execute c = outcomeWithLines (s.execute c) l := by
  unfold State.execute
  split
  · rfl
  · exact exec_withLines _ s l

/-- A step that uses up a signal is the same step on other lines: what it begins with sets the outputs anew. -/
theorem step_agree {s s' : State} (h : AgreeButLines s s') (hi : s.inputs ≠ []) :
    ∃ l : Lines, step s' = outcomeWithLines (step s) l := by
  obtain ⟨i, rest, hi⟩ := List.exists_cons_of_ne_nil hi
  have hi' : s'.inputs = i :: rest := h.inputs.symm.trans hi
  obtain ⟨l, hl⟩ := eq_withLines_of_agreeButLines h
  have hbegin : s'.beginStep rest = (s.beginStep rest).withLines l := by
    simpa [State.beginStep, h.trace] using hl none none s.trace rest
  have haccept : s'.accept rest = (s.accept rest).withLines l := hl none none [] rest
  by_cases hr : i.rst = true
  · exact ⟨⟨.L, .L, .L, .L⟩, by rw [step_reset s i rest hi hr, step_reset s' i rest hi' hr]; rfl⟩
  · rw [Bool.not_eq_true] at hr
    by_cases hp : s.phase = .idle
    · refine ⟨l, ?_⟩
      rw [step_idle s i rest hi hr hp, step_idle s' i rest hi' hr (h.phase ▸ hp)]
      unfold State.listen
      split
      · exact congrArg Host.Outcome.next hbegin
      · rw [haccept, execute_withLines]
    · rw [step_busy s i rest hi hr hp, step_busy s' i rest hi' hr (h.phase ▸ hp), hbegin]
      exact sequence_withLines _ _ l i

/-- Settles O49: a step that uses up no signal is none, and any other commutes with the exchange of the lines. -/
theorem stepDoesNotDependOnTheLines : Obligations.StepDoesNotDependOnTheLines := by
  intro s s' t h hstep
  by_cases hi : s.inputs = []
  case pos =>
    rw [step_nil s hi] at hstep
    cases hstep
    exact ⟨s', step_nil s' (h.inputs.symm.trans hi), h, fun hne => absurd hi hne⟩
  case neg =>
    obtain ⟨l, hl⟩ := step_agree h hi
    rw [hstep, outcomeWithLines_next] at hl
    exact ⟨t.withLines l, hl, agreeButLines_withLines t l, fun _ => ⟨rfl, rfl⟩⟩

/-- A run that answers a next state begins with a step that does. -/
theorem run_succ_next {n : Nat} {s t : State} (h : core.run (n + 1) s = .next t) :
    ∃ u, step s = .next u ∧ core.run n u = .next t := by
  cases hs : step s with
  | next u => exact ⟨u, rfl, (run_succ_of_step hs n).symm.trans h⟩
  | fault | refused =>
    have hcore : core.step s = _ := hs
    simp [Host.Core.run, hcore] at h

/-- Settles O50, by induction on the number of steps. -/
theorem runsDoNotDependOnTheLines : Obligations.RunsDoNotDependOnTheLines := by
  intro n
  induction n with
  | zero =>
    intro s s' t h hrun
    cases hrun
    exact ⟨s', rfl, h⟩
  | succ n ih =>
    intro s s' t h hrun
    obtain ⟨u, hstep, hrun⟩ := run_succ_next hrun
    obtain ⟨u', hstep', hu, -⟩ := stepDoesNotDependOnTheLines s s' u h hstep
    rw [run_succ_of_step hstep']
    exact ih u u' t hu hrun

end Sys2Proof.Machine

/-! Proofs for 60_exceptions.md: the order of a command's complaints (R92), and no step that stops the machine (R86, R94). A
step could stop it only at a cell that holds no value or at a position that selects no operation. -/
namespace Sys2Proof

open Sys2Proof.Config (Params)
open Sys2Proof.Machine

/-- Settles O21. -/
theorem firstComplaintDecidesTheStatus : Obligations.FirstComplaintDecidesTheStatus :=
  fun _ _ => ⟨exec_of_configurationWrong, exec_of_addressWrong, exec_of_valueWrong⟩

/-! ### Progress -/

namespace EncoderInv

section Cells

variable {p : Params} {s : State} (h : EncoderInv p s) (hcfg : s.cfg = true)
include h hcfg

/-- Every cell of a configured grid holds a value (R16, R25.2). -/
theorem exists_read {i : Nat} (hi : i < s.cells) : ∃ v, s.fb.read i = some v := by
  obtain ⟨-, -, hcells, -⟩ := h.configured hcfg
  exact (hcells i hi).imp fun _ hv => hv.1

/-- `SCAN` leads to a cell of the grid, so every scan index has a pixel (R6, R32). -/
theorem exists_scanPixel (hp : p.Admissible) {k : Nat} (hk : k < s.cells) : ∃ v, s.scanPixel p k = some v := by
  obtain ⟨hrange, -, -⟩ := h.scanIndex_bijective hp hcfg
  exact h.exists_read hcfg (hrange k hk)

end Cells

variable {s : State} (h : EncoderInv Config.params s)
include h

/-- A command is refused with a status, or writes, or reads a cell that holds a value. -/
theorem exec_continues (i : Instr) : Continues (Machine.exec i s) := by
  by_cases hok : checkStatus i s = .ok
  · cases i with
    | init => exact ⟨_, initAt_ok _ _ _ _ _ hok⟩
    | set => exact ⟨_, setAt_ok _ _ _ _ _ hok⟩
    | get row col =>
      obtain ⟨hcfg, hbounds⟩ := (getStatus_ok_iff s row col).mp hok
      obtain ⟨v, hv⟩ := h.exists_read hcfg (cellIndex_lt s row col hbounds)
      exact ⟨_, (exec_get_of_ok hcfg hbounds).trans (respondCell_of_read hv)⟩
    | scanrd k =>
      obtain ⟨hcfg, hk⟩ := (scanrdStatus_ok_iff s k).mp hok
      obtain ⟨v, hv⟩ := h.exists_scanPixel hcfg Config.defaultConfigurationIsAdmissible hk
      exact ⟨_, exec_scanrd_accepted hcfg hk hv⟩
    | showFb => exact ⟨_, showAt_ok s hok⟩
  · exact ⟨_, exec_error i s hok⟩

variable {i : Signals} {rest : List Signals} (hi : s.inputs = i :: rest) (hr : i.rst = false)
include hi hr

/-- In Idle nothing is offered, or a word that is refused or executed (R47). -/
theorem step_continues_of_idle (hp : s.phase = .idle) : Continues (step s) := by
  cases hc : i.cmd with
  | none => exact ⟨_, step_of_no_command hi hr hp hc⟩
  | some c =>
    cases hd : decode c with
    | error e => exact ⟨_, step_of_illegal hi hr hp hc hd⟩
    | ok instr =>
      rw [step_of_command hi hr hp hc hd]
      exact (h.accept rest).exec_continues instr

/-- In a SHOW the position selects an operation, and each word loaded is that of a pixel of the scan sequence (R77). -/
theorem step_continues_of_busy (hp : s.phase ≠ .idle) : Continues (step s) := by
  obtain ⟨pixels, -, hseq, -⟩ := scanSequenceIsARearrangementOfTheCells Config.params s
    Config.defaultConfigurationIsAdmissible h (h.cfg_of_busy hp)
  obtain ⟨-, t, -, hstep, -⟩ := showStep_of_busy h hseq hp hi hr
  exact ⟨t, hstep⟩

end EncoderInv

/-- Settles O53: without signals and at a reset the step answers from any state; else by the phase. -/
theorem noStepStopsTheMachine : Obligations.NoStepStopsTheMachine := by
  intro s h
  cases hi : s.inputs with
  | nil => exact ⟨s, step_nil s hi⟩
  | cons i rest =>
    cases hr : i.rst with
    | true => exact ⟨_, step_reset s i rest hi hr⟩
    | false =>
      by_cases hp : s.phase = .idle
      · exact h.step_continues_of_idle hi hr hp
      · exact h.step_continues_of_busy hi hr hp

end Sys2Proof

/-! Proofs for 70_reset_and_hazards.md sections 1 and 3: the encoder waits in Idle (R99), the frame buffer is borrowed during a
SHOW (R108), and a line changes by its own write only (R109). -/
namespace Sys2Proof.Machine

/-- Settles O10. -/
theorem idleWaitsForACommand : Obligations.IdleWaitsForACommand :=
  ⟨fun _ _ _ hi hr hp hc => step_of_no_command hi hr hp hc, step_nil⟩

/-- Settles O55: a step of a SHOW is one of the sequencer, which writes none of the frame's registers. -/
theorem frameBufferIsBorrowedDuringShow : Obligations.FrameBufferIsBorrowedDuringShow := by
  intro s t i rest hi hr hp hstep
  rw [step_busy s i rest hi hr hp] at hstep
  have hframe : SameFrame s t := (sameLines_beginStep s rest).frame.trans (sequence_sameFrame hstep)
  exact ⟨hframe.fb, hframe.cfg, hframe.rows, hframe.cols⟩

/-! ### What a step does to the lines (R109) -/

/-- The line registers and the pins of a state (R17, R50). -/
def State.lines (s : State) : Lines :=
  ⟨s.clk, s.data, s.clkO, s.dataO⟩

/-- What a step other than a reset may do to the lines `l` it finds: hold both, or write one, with that write on the port, and
hold the other. -/
inductive LineStep (l : Lines) (t : State) : Prop where
  | holds (h : t.lines = l)
  | writesClk (hop : t.op = some (.setClk t.clkO)) (hdata : t.data = l.data) (hdataO : t.dataO = l.dataO)
  | writesData (hop : t.op = some (.setData t.dataO)) (hclk : t.clk = l.clk) (hclkO : t.clkO = l.clkO)

theorem SameLines.lines_eq {s t : State} (h : SameLines s t) : t.lines = s.lines := by
  simp only [State.lines, h.clk, h.data, h.clkO, h.dataO]

/-- An operation writes its own line, and a delay writes none (R68). -/
theorem perform_lineStep (s : State) (o : Op) (r : Answer) : LineStep s.lines (s.perform o r) := by
  cases o with
  | setClk v => exact .writesClk rfl rfl rfl
  | setData v => exact .writesData rfl rfl rfl
  | delay d => exact .holds rfl

/-- What comes after the operation leaves the lines and the port to it. -/
theorem LineStep.of_sameLines {l : Lines} {t u : State} (h : LineStep l t) (hl : SameLines t u) (hop : u.op = t.op) :
    LineStep l u := by
  cases h with
  | holds h => exact .holds (hl.lines_eq.trans h)
  | writesClk ht hdata hdataO =>
    exact .writesClk (by rw [hop, ht, hl.clkO]) (hl.data.trans hdata) (hl.dataO.trans hdataO)
  | writesData ht hclk hclkO =>
    exact .writesData (by rw [hop, ht, hl.dataO]) (hl.clk.trans hclk) (hl.clkO.trans hclkO)

/-- A step of a SHOW waits, or performs its operation and then advances or aborts. -/
theorem sequence_lineStep {p : Config.Params} {s t : State} {i : Signals} (h : s.sequence p i = .next t) :
    LineStep s.lines t := by
  obtain ⟨o, -, ⟨-, rfl⟩ | ⟨-, ha⟩ | ⟨-, rfl⟩⟩ := sequence_next p s t i h
  case inl => exact .holds rfl
  case inr.inl => exact (perform_lineStep s o .ok).of_sameLines ha.sameLines ha.samePorts.op
  case inr.inr =>
    exact (perform_lineStep s o .fault).of_sameLines ⟨⟨rfl, rfl, rfl, rfl⟩, rfl, rfl, rfl, rfl, rfl⟩ rfl

/-- No command writes a line; SHOW only begins its transmission (R54, R70). -/
theorem exec_lines_eq {instr : Instr} {s t : State} (h : exec instr s = .next t) : t.lines = s.lines := by
  obtain ⟨-, rfl⟩ | ⟨-, hdone⟩ := exec_next instr s t h
  case inl => rfl
  case inr => cases hdone <;> rfl

theorem lineStep_of_step {s t : State} {i : Signals} {rest : List Signals} (hi : s.inputs = i :: rest)
    (hr : i.rst = false) (h : step s = .next t) : LineStep s.lines t := by
  cases step_next s t h with
  | still _ ht => subst ht; exact .holds rfl
  | reset j _ hj hrst _ =>
    obtain ⟨rfl, -⟩ := List.cons_eq_cons.mp (hi.symm.trans hj)
    exact absurd (hr.symm.trans hrst) (by decide)
  | waits _ _ _ _ _ _ ht => subst ht; exact .holds rfl
  | illegal _ _ _ _ _ _ _ _ _ ht => subst ht; exact .holds rfl
  | command _ _ _ _ _ _ _ _ _ ht => exact .holds ((exec_lines_eq ht).trans rfl)
  | sequenced _ _ _ _ _ ht =>
    have hbegun := sequence_lineStep ht
    exact hbegun

/-- Settles O57: a line that is held does not change, and of two lines a step writes at most one. -/
theorem linesChangeOnlyByTheirOwnWrite : Obligations.LinesChangeOnlyByTheirOwnWrite := by
  intro s t i rest hi hr hstep
  cases lineStep_of_step hi hr hstep with
  | holds h =>
    obtain ⟨hclk, hdata, hclkO, hdataO⟩ := Lines.mk.inj h
    exact ⟨fun hne => hne.elim (absurd hclk) (absurd hclkO), fun hne => hne.elim (absurd hdata) (absurd hdataO)⟩
  | writesClk hop hdata hdataO =>
    exact ⟨fun _ => ⟨hop, hdata, hdataO⟩, fun hne => hne.elim (absurd hdata) (absurd hdataO)⟩
  | writesData hop hclk hclkO =>
    exact ⟨fun hne => hne.elim (absurd hclk) (absurd hclkO), fun _ => ⟨hop, hclk, hclkO⟩⟩

end Sys2Proof.Machine

/-! Proofs for 70_reset_and_hazards.md section 4: the least time of a successful SHOW (R110, R111), and the end of one whose
operations are all answered (R110). -/
namespace Sys2Proof.Machine

open Sys2Proof.Config (Params)

/-! ### The least time (R111, R112) -/

theorem minMicros_append (es fs : List Event) : minMicros (es ++ fs) = minMicros es + minMicros fs := by
  fun_induction minMicros es with
  | case1 => simp
  | case2 d rest ih => rw [List.cons_append, minMicros, ih, Nat.add_assoc]
  | case3 e rest hne ih => rw [List.cons_append, minMicros, ih]; exact hne

/-- One bit lasts its set-up and its hold time (R64). -/
theorem minMicros_bitOps (p : Params) (b : Bool) : minMicros (okTrace (bitOps p b)) = p.tSetup + p.tHold := rfl

theorem minMicros_bits (p : Params) (bits : List Bool) :
    minMicros (okTrace (bits.flatMap (bitOps p))) = bits.length * (p.tSetup + p.tHold) := by
  induction bits with
  | nil => simp [minMicros]
  | cons b bits ih =>
    rw [List.flatMap_cons, okTrace_append, minMicros_append, minMicros_bitOps, ih, List.length_cons, Nat.add_one_mul,
      Nat.add_comm]

/-- One pulse lasts its high and its low time (R66). -/
theorem minMicros_pulseOps (p : Params) : minMicros (okTrace (pulseOps p)) = p.tLatchHi + p.tLatchLo := rfl

theorem minMicros_pulsesOps (p : Params) (n : Nat) :
    minMicros (okTrace (pulsesOps p n)) = n * (p.tLatchHi + p.tLatchLo) := by
  induction n with
  | zero => simp [pulsesOps, minMicros]
  | succ n ih =>
    rw [pulsesOps, okTrace_append, minMicros_append, minMicros_pulseOps, ih, Nat.add_one_mul, Nat.add_comm]

theorem minMicros_latchOps (p : Params) :
    minMicros (okTrace (latchOps p)) = p.tLatchWait + p.latchPulses * (p.tLatchHi + p.tLatchLo) := by
  rw [latchOps, okTrace_append, minMicros_append, minMicros_pulsesOps]
  rfl

/-- Settles O32: the opening operations have no delay; the bits, the wait and the pulses add up. -/
theorem showLastsAtLeast : Obligations.ShowLastsAtLeast := by
  intro p pixels
  have hstart : minMicros (okTrace startOps) = 0 := rfl
  rw [showOps, okTrace_append, okTrace_append, minMicros_append, minMicros_append, hstart, wordsOps_eq_flatMap,
    minMicros_bits, length_frameBits, minMicros_latchOps]
  omega

/-! ### Operations all of which are answered (R110) -/

theorem answersAll_iff (i : Signals) : i.answersAll = true ↔ i.rst = false ∧ i.dlyDone = true := by
  simp [Signals.answersAll]

/-- A line write is always answered, and a delay when `dly_done` is high (R50). -/
theorem exists_answer_of_answersAll {i : Signals} (h : i.answersAll = true) (o : Op) : ∃ r, i.answer o = some r := by
  obtain ⟨-, hdone⟩ := (answersAll_iff i).mp h
  cases o with
  | setClk v => exact ⟨_, answer_setClk i v⟩
  | setData v => exact ⟨_, answer_setData i v⟩
  | delay d => exact ⟨_, (answer_delay i d).trans (if_pos hdone)⟩

/-- `Run` ends when every operation is answered and there is a signal for each: each signal uses up an operation, or faults. -/
theorem runOps_ends_of_answersAll {ins : List Signals} (h : ∀ i ∈ ins, i.answersAll = true) {ops : List Op}
    (hlen : ops.length ≤ ins.length) (s : State) : ∃ w left source, runOps ops ins s = some (w, left, source) := by
  induction ops generalizing ins s with
  | nil => exact ⟨s, ins, none, runOps_nil ins s⟩
  | cons o ops ih =>
    cases ins with
    | nil => simp at hlen
    | cons i ins =>
      obtain ⟨hi, h⟩ := List.forall_mem_cons.mp h
      obtain ⟨r, ha⟩ := exists_answer_of_answersAll hi o
      cases r with
      | ok =>
        rw [runOps_of_ok _ _ _ ha]
        exact ih h (Nat.le_of_succ_le_succ hlen) _
      | fault => exact ⟨_, _, _, runOps_of_fault _ _ _ ha⟩

@[simp] theorem State.endShow_phase (s : State) (left : List Signals) (source : Option (BitVec 16)) :
    (s.endShow left source).phase = .idle := by
  cases source <;> rfl

/-- A transmission ends with a response: OK, or HardwareFault with its source (R69, R76). -/
theorem endShow_rsp (s : State) (left : List Signals) (source : Option (BitVec 16)) :
    (s.endShow left source).rsp = some ⟨.ok, 0⟩ ∨ ∃ src, (s.endShow left source).rsp = some ⟨.hardwareFault, src⟩ := by
  cases source with
  | none => exact .inl rfl
  | some src => exact .inr ⟨src, rfl⟩

/-- Settles O48: there is a signal for each operation of the list, so `Run` ends, and the machine ends like it. -/
theorem answeredShowEnds : Obligations.AnsweredShowEnds := by
  intro s ins rest h hcfg hp hi hanswers hlen
  obtain ⟨pixels, -, hseq, -⟩ :=
    scanSequenceIsARearrangementOfTheCells Config.params s Config.defaultConfigurationIsAdmissible h hcfg
  have hops : (showOps Config.params pixels).length ≤ ins.length := by
    rw [length_showOps, length_of_scanSeq hseq, hlen]
    exact Nat.le_refl _
  obtain ⟨w, left, source, hrun⟩ := runOps_ends_of_answersAll hanswers hops s
  have hend := endsLikeRun_of_idle h hcfg hp hseq hi fun i hmem => ((answersAll_iff i).mp (hanswers i hmem)).1
  rw [hrun] at hend
  obtain ⟨n, hn, hsteps⟩ := hend
  exact ⟨n, _, _, by omega, exec_showFb_of_configured hcfg, hsteps, State.endShow_phase .., endShow_rsp ..⟩

end Sys2Proof.Machine
